-- ==== Sys2Proof/Word.lean ====
section
/-! DEFINITION. The two bit-vector types of the engine (spec/00_scope.md R11): a byte is 8 bits, a word is 32 bits,
bit 0 is the least significant. -/

namespace Sys2Proof

/-- A byte, an element of GF(2^8) where it is one (40 R120). -/
abbrev Byte := BitVec 8

/-- A word of the host port, of the schedule, of the operand registers. -/
abbrev Word := BitVec 32

end Sys2Proof
end

