-- ==== Sys2Proof/Config.lean ====
section
/-! DEFINITION. The implementation parameters of spec/00_scope.md R7. The engine has no instruction with an undefined
result, so no free value stands here. -/

namespace Sys2Proof.Config

/-- `DBUF_BYTES`: the size of the data buffer (R7, decision D8; log entry 8). -/
abbrev dbufBytes : Nat := 4096

/-- `RK_MAX`: the largest schedule length in words, and the size of the host's schedule window (R7, R37). -/
abbrev rkMax : Nat := 120

/-- `BLK_MAX`: the largest block and the largest key in bytes, and so the size of `KEYIN` and of a chaining
register (R7, R27, R28). -/
abbrev blkMax : Nat := 32

/-- `SIZES`: the legal values of `keyBits` and `blockBits` (R5, R7). -/
abbrev LegalSize (bits : Nat) : Prop := bits = 128 ∨ bits = 192 ∨ bits = 256

/-- What a byte of `DBUF` that nothing has written reads as. DESIGN CHOICE, unsafe (log entry 3): the spec leaves it
unspecified (10 R38). -/
abbrev unlistedByte : Byte := 0x00#8

end Sys2Proof.Config
end

