-- ==== Sys2Proof/Syntax.lean ====
section
/-! DEFINITION. The five commands of the engine (spec/30_encoding.md R96), one constructor per row of
spec/opcode_table.json. -/

namespace Sys2Proof

/-- The number of a chaining register, the `cr` field of format C (30 R94, 10 R28). -/
inductive ChainReg where
  | cr0
  | cr1
  deriving DecidableEq, Repr

/-- A command. `setkey` carries its two bit counts as natural numbers (30 R95), so that a size that fits no 12-bit field
can be written down and is ill-formed (45 R249, 93 U12). -/
inductive Instr where
  /-- `SETKEY kbits, bbits` (41 R150). -/
  | setkey (kbits bbits : Nat)
  /-- `ENC` (43 R202). -/
  | enc
  /-- `DEC` (43 R203). -/
  | dec
  /-- `CBCE cr` (44 R218). -/
  | cbce (cr : ChainReg)
  /-- `CBCD cr` (44 R220). -/
  | cbcd (cr : ChainReg)
  deriving DecidableEq, Repr

end Sys2Proof
end

