-- ==== Sys2Proof/WellFormed.lean ====
section
/-! DEFINITION. Which commands have a word: the bit counts of `SETKEY` fit their 12-bit fields (spec/30_encoding.md R92,
R95; spec/45_host_interface.md R249: a larger size must not be placed in the word). A well-formed `SETKEY` may still have
an illegal size; it then fails with `InvalidParameter` (30 R103). -/

namespace Sys2Proof

/-- The check, as a `Bool`. -/
def Instr.wf : Instr → Bool
  | .setkey kbits bbits => decide (kbits < 4096) && decide (bbits < 4096)
  | .enc => true
  | .dec => true
  | .cbce _ => true
  | .cbcd _ => true

/-- A command that has a word. -/
abbrev WellFormed (i : Instr) : Prop := i.wf = true

end Sys2Proof
end

