-- ==== Sys2Proof/Decode.lean ====
section
/-! DEFINITION. Decoding and encoding of command words (spec/30_encoding.md R90 to R99, R103). A command is one 32-bit
word, the data of a host write to `CMD`; it is not stored in a memory, so no byte order enters. -/

namespace Sys2Proof

/-- Why a word is no command (30 R97). -/
inductive IllegalWord where
  /-- `op` is 0x0 or 0x6 to 0xF. -/
  | noSuchOp
  /-- One of the five opcodes with a non-zero reserved field `rsvK`, `rsvB` or `rsvC`. -/
  | reservedBits
  deriving DecidableEq, Repr

/-- The result of decoding: a command, or an illegal word with its reason. -/
inductive Decoded where
  | command (i : Instr)
  | illegal (why : IllegalWord)
  deriving DecidableEq, Repr

/-- `op`, bits 31:28 (R91). -/
def fieldOp (w : Word) : BitVec 4 := w.extractLsb' 28 4
/-- `rsvK`, bits 27:24 (R92). -/
def fieldRsvK (w : Word) : BitVec 4 := w.extractLsb' 24 4
/-- `bbits`, bits 23:12 (R92). -/
def fieldBbits (w : Word) : BitVec 12 := w.extractLsb' 12 12
/-- `kbits`, bits 11:0 (R92). -/
def fieldKbits (w : Word) : BitVec 12 := w.extractLsb' 0 12
/-- `rsvB`, bits 27:0 (R93). -/
def fieldRsvB (w : Word) : BitVec 28 := w.extractLsb' 0 28
/-- `rsvC`, bits 27:1 (R94). -/
def fieldRsvC (w : Word) : BitVec 27 := w.extractLsb' 1 27
/-- `cr`, bit 0 (R94): selects `CR[0]` or `CR[1]` (R95). -/
def fieldCr (w : Word) : ChainReg := if w.getLsbD 0 then .cr1 else .cr0

/-- `Decode(w)` of R103, total on all 2^32 words. -/
def decode (w : Word) : Decoded :=
  if fieldOp w = 0x1#4 then
    if fieldRsvK w = 0 then .command (.setkey (fieldKbits w).toNat (fieldBbits w).toNat) else .illegal .reservedBits
  else if fieldOp w = 0x2#4 then
    if fieldRsvB w = 0 then .command .enc else .illegal .reservedBits
  else if fieldOp w = 0x3#4 then
    if fieldRsvB w = 0 then .command .dec else .illegal .reservedBits
  else if fieldOp w = 0x4#4 then
    if fieldRsvC w = 0 then .command (.cbce (fieldCr w)) else .illegal .reservedBits
  else if fieldOp w = 0x5#4 then
    if fieldRsvC w = 0 then .command (.cbcd (fieldCr w)) else .illegal .reservedBits
  else .illegal .noSuchOp

/-- The `cr` bit of a chaining register's number. -/
def crBit : ChainReg → BitVec 1
  | .cr0 => 0#1
  | .cr1 => 1#1

/-- The word of a command (R92, R93, R94): `op`, then the format's fields from the top. For an ill-formed `SETKEY` the
sizes are cut to their fields, which no host may do (45 R249); only well-formed commands are encoded. -/
def encode : Instr → Word
  | .setkey kbits bbits => 0x1#4 ++ 0x0#4 ++ BitVec.ofNat 12 bbits ++ BitVec.ofNat 12 kbits
  | .enc => 0x2#4 ++ 0x0#28
  | .dec => 0x3#4 ++ 0x0#28
  | .cbce cr => 0x4#4 ++ 0x0#27 ++ crBit cr
  | .cbcd cr => 0x5#4 ++ 0x0#27 ++ crBit cr

/-- The `match` column of R96 (spec/opcode_table.json). -/
def matchWord : Instr → Word
  | .setkey _ _ => 0x10000000#32
  | .enc => 0x20000000#32
  | .dec => 0x30000000#32
  | .cbce _ => 0x40000000#32
  | .cbcd _ => 0x50000000#32

/-- The `mask` column of R96 (spec/opcode_table.json). -/
def maskWord : Instr → Word
  | .setkey _ _ => 0xFF000000#32
  | .enc => 0xFFFFFFFF#32
  | .dec => 0xFFFFFFFF#32
  | .cbce _ => 0xFFFFFFFE#32
  | .cbcd _ => 0xFFFFFFFE#32

/-- The host's reading of an opcode-table word: the low `nbits` bits of `w`, zeros above, given to `decode`. -/
def decodeTableWord (nbits w : Nat) : Option Instr :=
  match decode (BitVec.ofNat 32 (w % 2 ^ nbits)) with
  | .command i => some i
  | .illegal _ => none

end Sys2Proof
end

