-- ==== Sys2Proof/Machine/State.lean ====
section
/-! DEFINITION. Everything the spec gives one engine (spec/10_state.md R20 to R40, spec/46_control_fsm.md R260), as plain
data, and its state after reset (10 R38, 70 R301). -/

namespace Sys2Proof.Machine

/-- Why the engine's model stops although the spec describes the machine as going on. -/
inductive Fault where
  /-- Raised by `ENC`, `DEC`, `CBCE`, `CBCD` (and by the state machine's `CHECK`) in a state with `KEYED = 1` whose sizes
  or schedule length break the context invariant 10 R25. The spec says that no such state exists, so it gives no effect
  there; no run reaches one. Safe: the model stops (log entry 5). -/
  | contextOutsideInvariant
  deriving DecidableEq, Repr

/-- Why the model gives a situation no meaning. -/
inductive Refusal where
  /-- Raised by an arm of `exec` whose instruction has no meaning yet; no arm is such now. Safe. -/
  | notModelled (mnemonic : String)
  /-- Raised by a host access other than a read of `STATUS` while `BUSY = 1`, which 20 R75 and 70 R304 forbid and give no
  result (93 U3: refuse). At the command level no run reaches it. Safe (log entry 6). -/
  | accessWhileBusy
  deriving DecidableEq, Repr

/-- The result codes of a command by name (10 R33, 60 R280). -/
inductive ErrorCode where
  | ok
  | invalidParameter
  | notKeyed
  | invalidLength
  | addressRange
  | illegalCommand
  deriving DecidableEq, Repr

/-- One column of the cipher state `a[0..3][c]` (42 R170); `r0` is row 0. -/
structure Column where
  r0 : Byte
  r1 : Byte
  r2 : Byte
  r3 : Byte
  deriving DecidableEq, Repr

/-- The cipher context (10 R22 to R25). -/
structure Context where
  /-- `NB`: block words, 0, 4, 6 or 8 (R22). -/
  nb : BitVec 4
  /-- `NK`: key words, 0, 4, 6 or 8 (R22). -/
  nk : BitVec 4
  /-- `NR`: round count, 0, 10, 12 or 14 (R22). -/
  nr : BitVec 4
  /-- `KEYED` (R23). -/
  keyed : Bool
  /-- `RKLEN`: number of schedule words (R24). -/
  rklen : BitVec 7
  /-- `RK`: the schedule, a sequence of its own length (R24). -/
  rk : List Word
  deriving DecidableEq, Repr

/-- The values of the control register `fsm` (46 R260). -/
inductive FsmState where
  | idle
  | check
  | ksLoad
  | ksStep
  | bFetch
  | bPre
  | bRound
  | bPost
  | bStore
  | bChain
  | done
  deriving DecidableEq, Repr

/-- The hidden working registers of a command (10 R35, 46 R260). The host cannot reach them and they carry nothing from
one command to the next. -/
structure Work where
  /-- `A`: the cipher state, 8 columns of which `0..NB-1` are used. -/
  a : Vector Column 8
  /-- `IN`: the input block. -/
  inp : Vector Byte 32
  /-- `OUT`: the output block. -/
  out : Vector Byte 32
  /-- `rnd`: the round number. -/
  rnd : BitVec 4
  /-- `rc`: the round constant (40 R127). -/
  rc : Byte
  /-- `kidx`: the index of the next schedule word. -/
  kidx : BitVec 7
  /-- `blk`: the block number. -/
  blk : Word
  /-- `nblk`: the number of blocks. -/
  nblk : Word
  /-- `fsm`: the control state. -/
  fsm : FsmState
  /-- `dir`: false encrypts, true decrypts. -/
  dir : Bool
  /-- `chain`: false for `ENC` and `DEC`, true for `CBCE` and `CBCD`. -/
  chain : Bool
  deriving DecidableEq, Repr

/-- The bytes a reset leaves in the data state that the spec does not specify (10 R38, 93 U9: drawn once at reset). -/
structure ResetDraw where
  keyin : Vector Byte 32
  cr0 : Vector Byte 32
  cr1 : Vector Byte 32
  /-- The bytes of `DBUF` from offset 0 on; a byte past the end of this list is 0x00. -/
  dbuf : List Byte
  deriving DecidableEq, Repr

/-- What the host, or the reset input, does next (45 R240, 70 R300). -/
inductive HostAccess where
  /-- `HostRead(wa)`. -/
  | read (wa : Nat)
  /-- `HostWrite(wa, d)`. -/
  | write (wa : Nat) (d : Word)
  /-- The host makes no access. -/
  | wait
  /-- A reset, which leaves the drawn bytes in the unspecified state. -/
  | reset (draw : ResetDraw)
  deriving DecidableEq, Repr

/-- One engine, and the host's accesses still to come. -/
structure State where
  /-- The cipher context (10 R22 to R26). -/
  ctx : Context
  /-- `KEYIN` (10 R27). -/
  keyin : Vector Byte 32
  /-- `CR[0]` (10 R28). -/
  cr0 : Vector Byte 32
  /-- `CR[1]` (10 R28). -/
  cr1 : Vector Byte 32
  /-- `SRC` (10 R29). -/
  src : Word
  /-- `DST` (10 R29). -/
  dst : Word
  /-- `LEN` (10 R29). -/
  len : Word
  /-- `CMD` (10 R30). -/
  cmd : Word
  /-- `ERR` (10 R33). -/
  err : BitVec 4
  /-- `BUSY` (10 R31, R40). -/
  busy : Bool
  /-- `DBUF` (10 R34): cells sorted by address, none equal to what an unlisted byte reads as. -/
  dbuf : List Host.Cell
  /-- The hidden working registers (10 R35). -/
  work : Work
  /-- The MODEL's own: the host's accesses still to come, oldest first (log entry 1). -/
  port : List HostAccess
  /-- The MODEL's own: what the host's latest read returned (log entry 1). -/
  rdata : Option Word
  deriving DecidableEq, Repr

/-- The context after reset: unkeyed, all sizes 0, the schedule empty (10 R38). -/
def Context.unkeyed : Context :=
  { nb := 0, nk := 0, nr := 0, keyed := false, rklen := 0, rk := [] }

/-- The hidden registers after reset: `fsm = IDLE` (70 R301), the rest irrelevant (10 R38, 93 U14), here zero (DESIGN
CHOICE, log entry 4). -/
def Work.zero : Work :=
  { a := Vector.replicate 8 ⟨0, 0, 0, 0⟩
    inp := Vector.replicate 32 0
    out := Vector.replicate 32 0
    rnd := 0
    rc := 0
    kidx := 0
    blk := 0
    nblk := 0
    fsm := .idle
    dir := false
    chain := false }

/-- The engine right after reset (10 R38, 70 R301), its host making no access. The bytes of `KEYIN`, `CR[0]` and `CR[1]`,
which the spec leaves unspecified, are 0x00 here (DESIGN CHOICE, unsafe, log entry 2); `DBUF` lists nothing (log entry
3). -/
def State.reset : State :=
  { ctx := Context.unkeyed
    keyin := Vector.replicate 32 0
    cr0 := Vector.replicate 32 0
    cr1 := Vector.replicate 32 0
    src := 0
    dst := 0
    len := 0
    cmd := 0
    err := 0
    busy := false
    dbuf := []
    work := Work.zero
    port := []
    rdata := none }

end Sys2Proof.Machine
end

