-- ==== Sys2Proof/Machine/Ops.lean ====
section
/-! DEFINITION. The named operations over memory, buffers and registers: byte order (spec/00_scope.md R12), `DBUF` bytes and
blocks (spec/20_memory.md R64), the 32-byte buffers, and ending a command with an error or without (spec/60_exceptions.md
R286). -/

namespace Sys2Proof.Machine

/-! ### Byte order -/

/-- `byte(w, k)`: the `k`-th byte of a word from the most significant end (00 R12). -/
def wordByte (w : Word) (k : Nat) : Byte := w.extractLsb' (24 - 8 * k) 8

/-- `word(b0, b1, b2, b3)`: `b0` is the most significant byte (00 R12). -/
def wordOf (b0 b1 b2 b3 : Byte) : Word := b0 ++ b1 ++ b2 ++ b3

/-- The four bytes of a word, first byte first. -/
def wordBytes (w : Word) : List Byte := [wordByte w 0, wordByte w 1, wordByte w 2, wordByte w 3]

/-- `Wd(B, j)` of a byte sequence (00 R12). -/
def wordAt (b : List Byte) (j : Nat) : Word :=
  wordOf (b.getD (4 * j) 0) (b.getD (4 * j + 1) 0) (b.getD (4 * j + 2) 0) (b.getD (4 * j + 3) 0)

/-- `X ^ Y` on two sequences, element by element (00 R13). -/
def xorBytes (x y : List Byte) : List Byte := List.zipWith (· ^^^ ·) x y

/-! ### DBUF -/

/-- One byte of memory; an unlisted address reads as `Config.unlistedByte`. -/
def memGet : List Host.Cell → Nat → Byte
  | [], _ => Config.unlistedByte
  | c :: m, a => if c.1 = a then c.2 else memGet m a

/-- Puts a cell in its place by address. -/
def memInsert (a : Nat) (b : Byte) : List Host.Cell → List Host.Cell
  | [] => [(a, b)]
  | c :: m => if a < c.1 then (a, b) :: c :: m else c :: memInsert a b m

/-- Writes one byte, keeping the canonical form: the value an unlisted address reads as is not listed. -/
def memSet (m : List Host.Cell) (a : Nat) (b : Byte) : List Host.Cell :=
  if b = Config.unlistedByte then m.filter (fun c => decide (c.1 ≠ a))
  else memInsert a b (m.filter (fun c => decide (c.1 ≠ a)))

/-- The canonical form: addresses strictly rising and inside `DBUF`, no cell equal to what an unlisted address reads as. -/
def Memory.wf : List Host.Cell → Bool
  | [] => true
  | c :: m =>
    decide (c.1 < Config.dbufBytes) && decide (c.2 ≠ Config.unlistedByte) && m.all (fun c' => decide (c.1 < c'.1)) && Memory.wf m

/-- `MemRead(addr, n)` (20 R64). -/
def memRead (m : List Host.Cell) (addr n : Nat) : List Byte :=
  (List.range n).map (fun j => memGet m (addr + j))

/-- `MemWrite(addr, n, v)` (20 R64): the bytes of `v` in ascending address order (20 R68). -/
def memWrite (m : List Host.Cell) (addr : Nat) : List Byte → List Host.Cell
  | [] => m
  | b :: v => memWrite (memSet m addr b) (addr + 1) v

/-! ### Buffers of a fixed size -/

/-- The elements `0 .. k-1` of a buffer. -/
def bufTake {α : Type} {n : Nat} (v : Vector α n) (k : Nat) : List α := v.toList.take k

/-- Writes a sequence over the first elements of a buffer; the elements after it keep their values. -/
def bufPut {α : Type} {n : Nat} (v : Vector α n) (xs : List α) : Vector α n :=
  ⟨⟨xs.take n ++ v.toList.drop xs.length⟩, by simp; omega⟩

/-- `Wd(X, j)` of a 32-byte buffer (45 R243). -/
def bufWord (v : Vector Byte 32) (j : Nat) : Word := wordAt v.toList j

/-- Writes word `j` of a 32-byte buffer, four bytes (45 R243). -/
def bufSetWord (v : Vector Byte 32) (j : Nat) (d : Word) : Vector Byte 32 :=
  (((v.setIfInBounds (4 * j) (wordByte d 0)).setIfInBounds (4 * j + 1) (wordByte d 1)).setIfInBounds (4 * j + 2)
    (wordByte d 2)).setIfInBounds (4 * j + 3) (wordByte d 3)

/-! ### Registers -/

/-- `CR[n]` (10 R28). -/
def State.cr (s : State) : ChainReg → Vector Byte 32
  | .cr0 => s.cr0
  | .cr1 => s.cr1

/-- `CR[n] <- v`. -/
def State.setCr (s : State) (n : ChainReg) (v : Vector Byte 32) : State :=
  match n with
  | .cr0 => { s with cr0 := v }
  | .cr1 => { s with cr1 := v }

/-- `CMD <- w` (10 R30). -/
def State.setCmd (s : State) (w : Word) : State := { s with cmd := w }

/-- `DBUF <- m`. -/
def State.setDbuf (s : State) (m : List Host.Cell) : State := { s with dbuf := m }

/-- The context is replaced as a whole (41 R158). -/
def State.setCtx (s : State) (c : Context) : State := { s with ctx := c }

/-- The hidden registers (10 R35). -/
def State.setWork (s : State) (w : Work) : State := { s with work := w }

/-! ### The end of a command -/

/-- The number of a result code (60 R280). -/
def errCode : ErrorCode → BitVec 4
  | .ok => 0
  | .invalidParameter => 1
  | .notKeyed => 2
  | .invalidLength => 3
  | .addressRange => 4
  | .illegalCommand => 5

/-- The end of a command: `ERR` is written and `BUSY` returns to 0 (60 R286, 45 R245). -/
def State.finish (s : State) (e : ErrorCode) : State := { s with err := errCode e, busy := false }

/-- `raise E` (60 R286): the engine's exceptions. `CMD` holds the word already; `ERR` takes the code, `BUSY` returns to 0, and
nothing else changes. There is no handler and no return (60 R291): the engine is ready for the next access. -/
def raise (e : ErrorCode) (s : State) : Host.Outcome State Fault Refusal := .next (s.finish e)

/-- A successful command ends with `ERR <- 0` (60 R286). -/
def succeed (s : State) : Host.Outcome State Fault Refusal := .next (s.finish .ok)

end Sys2Proof.Machine
end

