-- ==== Sys2Proof/Machine/Operands.lean ====
section
/-! DEFINITION. The operand forms of the commands: the two immediates of `SETKEY` (spec/30_encoding.md R95), the sizes of the
context and the block size (spec/00_scope.md R6, spec/10_state.md R25), the one addressing mode, base plus block offset
(spec/20_memory.md R65), and the range and length checks (20 R66, spec/44_cbc.md R219). -/

namespace Sys2Proof.Machine

/-- A size in bits to a size in words: `Nk = kbits / 32`, `Nb = bbits / 32` (R95). -/
def wordsOfBits (bits : Nat) : Nat := bits / 32

/-- `Nr = max(Nb, Nk) + 6` (00 R6). -/
def roundCount (nk nb : Nat) : Nat := max nb nk + 6

/-- The schedule length `(Nr + 1) * Nb` (00 R6). -/
def scheduleLength (nk nb : Nat) : Nat := (roundCount nk nb + 1) * nb

/-- A legal size in words (00 R5). -/
abbrev LegalWords (n : Nat) : Prop := n = 4 ∨ n = 6 ∨ n = 8

/-- What 10 R25 says of the sizes and the schedule length of a keyed context. -/
abbrev Context.Legal (c : Context) : Prop :=
  LegalWords c.nb.toNat ∧ LegalWords c.nk.toNat ∧ c.nr.toNat = roundCount c.nk.toNat c.nb.toNat ∧
    c.rklen.toNat = scheduleLength c.nk.toNat c.nb.toNat ∧ c.rk.length = c.rklen.toNat

/-- `BB = 4 * NB`: the block size in bytes (00 R6). -/
def blockBytes (c : Context) : Nat := 4 * c.nb.toNat

/-- Round key number `k`: the words `RK[k*NB .. k*NB + NB - 1]` (41 R161). -/
def roundKey (c : Context) (k : Nat) : List Word := (c.rk.drop (k * c.nb.toNat)).take c.nb.toNat

/-- Where block `i` is read: `SRC + i * BB`, a natural number (20 R65). -/
def srcBlock (s : State) (i : Nat) : Nat := s.src.toNat + i * blockBytes s.ctx

/-- Where block `i` is written: `DST + i * BB` (20 R65). -/
def dstBlock (s : State) (i : Nat) : Nat := s.dst.toNat + i * blockBytes s.ctx

/-- The range check of 20 R66 for a command that moves `n` bytes: the input or the output buffer ends past `DBUF`. -/
abbrev OutOfRange (s : State) (n : Nat) : Prop :=
  Config.dbufBytes < s.src.toNat + n ∨ Config.dbufBytes < s.dst.toNat + n

/-- The length check of 44 R219: `LEN` is no multiple of the block size. -/
abbrev BadLength (s : State) : Prop := s.len.toNat % blockBytes s.ctx ≠ 0

/-- `LEN div BB`: the number of blocks of a chained command (20 R65). -/
def blockCount (s : State) : Nat := s.len.toNat / blockBytes s.ctx

/-- The chaining value `CR[cr][0 .. BB-1]` (44 R215). -/
def chainValue (s : State) (cr : ChainReg) : List Byte := bufTake (s.cr cr) (blockBytes s.ctx)

/-- `CR[cr][0 .. BB-1] <- v`; the other bytes keep their values (44 R225). -/
def setChainValue (s : State) (cr : ChainReg) (v : List Byte) : State := s.setCr cr (bufPut (s.cr cr) v)

end Sys2Proof.Machine
end

