-- ==== Sys2Proof/Machine/Flags.lean ====
section
/-! DEFINITION. The engine's flags `KEYED`, `BUSY` and `ERR` (spec/10_state.md R40) as the host sees them: the read-only views
`STATUS` (R31) and `CFG` (R32), and which error a command reports first (spec/60_exceptions.md R287). -/

namespace Sys2Proof.Machine

/-- A one-bit flag. -/
def flagBit (b : Bool) : BitVec 1 := if b then 1#1 else 0#1

/-- `STATUS`: `BUSY` at bit 0, `KEYED` at bit 1, `ERR` at bits 7:4, the rest 0 (R31). -/
def statusWord (s : State) : Word := 0x0#24 ++ s.err ++ 0x0#2 ++ flagBit s.ctx.keyed ++ flagBit s.busy

/-- `CFG`: `NB` at bits 3:0, `NK` at 7:4, `NR` at 11:8, `RKLEN` at 22:16, the rest 0 (R32). -/
def cfgWord (s : State) : Word := 0x0#9 ++ s.ctx.rklen ++ 0x0#4 ++ s.ctx.nr ++ s.ctx.nk ++ s.ctx.nb

/-- The first error of a data command that moves `n` bytes and checks its length when `chained` (60 R287, R288). -/
def dataError (chained : Bool) (n : Nat) (s : State) : Option ErrorCode :=
  if s.ctx.keyed = false then some .notKeyed
  else if chained = true ∧ BadLength s then some .invalidLength
  else if OutOfRange s n then some .addressRange
  else none

/-- The first error of a command in the order of 60 R287, if one holds. The word is a command, so `IllegalCommand` is past. -/
def firstError (i : Instr) (s : State) : Option ErrorCode :=
  match i with
  | .setkey kbits bbits =>
    if Config.LegalSize kbits ∧ Config.LegalSize bbits then none else some .invalidParameter
  | .enc => dataError false (blockBytes s.ctx) s
  | .dec => dataError false (blockBytes s.ctx) s
  | .cbce _ => dataError true s.len.toNat s
  | .cbcd _ => dataError true s.len.toNat s

end Sys2Proof.Machine
end

