-- ==== Sys2Proof/Machine/RoundTransformer.lean ====
section
/-! DEFINITION. The round transformer (spec/42_round_transformer.md R170 to R181): pure functions on a cipher state, held as
the list of its `Nb` columns. -/

namespace Sys2Proof.Machine

/-! ### The state -/

/-- A column from four bytes, row 0 first. -/
def columnAt (b : List Byte) (c : Nat) : Column :=
  ⟨b.getD (4 * c) 0, b.getD (4 * c + 1) 0, b.getD (4 * c + 2) 0, b.getD (4 * c + 3) 0⟩

/-- `LoadState(B, Nb)`: `a[r][c] = B[4c + r]` (20 R62). -/
def loadState (b : List Byte) (nb : Nat) : List Column := (List.range nb).map (columnAt b)

/-- The bytes of a column, row 0 first. -/
def columnBytes (x : Column) : List Byte := [x.r0, x.r1, x.r2, x.r3]

/-- `StoreState(a, Nb)`: `B[4c + r] = a[r][c]` (20 R62). -/
def storeState (a : List Column) : List Byte := a.flatMap columnBytes

/-- The byte of a column in row `r`. -/
def columnRow (x : Column) : Nat → Byte
  | 0 => x.r0
  | 1 => x.r1
  | 2 => x.r2
  | _ => x.r3

/-- `a[r][c]`. -/
def cell (a : List Column) (r c : Nat) : Byte := columnRow (a.getD c ⟨0, 0, 0, 0⟩) r

/-- Applies a byte function to each byte of a column. -/
def mapColumn (f : Byte → Byte) (x : Column) : Column := ⟨f x.r0, f x.r1, f x.r2, f x.r3⟩

/-! ### Forward transformations -/

/-- `SubBytes` (R171). -/
def subBytes (a : List Column) : List Column := a.map (mapColumn sbox)

/-- `ShiftRows`: row `r` to the left by `SHIFT[Nb][r]` (R172). -/
def shiftRows (nb : Nat) (a : List Column) : List Column :=
  (List.range nb).map fun c =>
    ⟨cell a 0 ((c + shiftOffset nb 0) % nb), cell a 1 ((c + shiftOffset nb 1) % nb),
      cell a 2 ((c + shiftOffset nb 2) % nb), cell a 3 ((c + shiftOffset nb 3) % nb)⟩

/-- One column of `MixColumns` (R173). -/
def mixColumn (x : Column) : Column :=
  ⟨mul2 x.r0 ^^^ mul3 x.r1 ^^^ x.r2 ^^^ x.r3,
    x.r0 ^^^ mul2 x.r1 ^^^ mul3 x.r2 ^^^ x.r3,
    x.r0 ^^^ x.r1 ^^^ mul2 x.r2 ^^^ mul3 x.r3,
    mul3 x.r0 ^^^ x.r1 ^^^ x.r2 ^^^ mul2 x.r3⟩

/-- `MixColumns` (R173). -/
def mixColumns (a : List Column) : List Column := a.map mixColumn

/-- A round-key word added to a column, its top byte to row 0 (R174). -/
def addWord (x : Column) (w : Word) : Column :=
  ⟨x.r0 ^^^ wordByte w 0, x.r1 ^^^ wordByte w 1, x.r2 ^^^ wordByte w 2, x.r3 ^^^ wordByte w 3⟩

/-- `AddRoundKey(a, k)`: word `RK[k*NB + c]` to column `c` (R174). -/
def addRoundKey (ctx : Context) (a : List Column) (k : Nat) : List Column := List.zipWith addWord a (roundKey ctx k)

/-- `Round(a, k)` (R175). -/
def forwardRound (ctx : Context) (a : List Column) (k : Nat) : List Column :=
  addRoundKey ctx (mixColumns (shiftRows ctx.nb.toNat (subBytes a))) k

/-- `FinalRound(a)` (R176). -/
def finalRound (ctx : Context) (a : List Column) : List Column :=
  addRoundKey ctx (shiftRows ctx.nb.toNat (subBytes a)) ctx.nr.toNat

/-! ### Inverse transformations -/

/-- `InvSubBytes` (R177). -/
def invSubBytes (a : List Column) : List Column := a.map (mapColumn invSbox)

/-- `InvShiftRows`: row `r` to the right by `SHIFT[Nb][r]`; `Nb` is added before the offset is taken off (R178). -/
def invShiftRows (nb : Nat) (a : List Column) : List Column :=
  (List.range nb).map fun c =>
    ⟨cell a 0 ((c + nb - shiftOffset nb 0) % nb), cell a 1 ((c + nb - shiftOffset nb 1) % nb),
      cell a 2 ((c + nb - shiftOffset nb 2) % nb), cell a 3 ((c + nb - shiftOffset nb 3) % nb)⟩

/-- One column of `InvMixColumns` (R179). -/
def invMixColumn (x : Column) : Column :=
  ⟨mul14 x.r0 ^^^ mul11 x.r1 ^^^ mul13 x.r2 ^^^ mul9 x.r3,
    mul9 x.r0 ^^^ mul14 x.r1 ^^^ mul11 x.r2 ^^^ mul13 x.r3,
    mul13 x.r0 ^^^ mul9 x.r1 ^^^ mul14 x.r2 ^^^ mul11 x.r3,
    mul11 x.r0 ^^^ mul13 x.r1 ^^^ mul9 x.r2 ^^^ mul14 x.r3⟩

/-- `InvMixColumns` (R179). -/
def invMixColumns (a : List Column) : List Column := a.map invMixColumn

/-- `InvRound(a, k)` (R180). -/
def inverseRound (ctx : Context) (a : List Column) (k : Nat) : List Column :=
  invSubBytes (invShiftRows ctx.nb.toNat (invMixColumns (addRoundKey ctx a k)))

/-- `InvFinalRound(a)` (R181). -/
def inverseFinalRound (ctx : Context) (a : List Column) : List Column :=
  invSubBytes (invShiftRows ctx.nb.toNat (addRoundKey ctx a ctx.nr.toNat))

end Sys2Proof.Machine
end

