-- ==== Sys2Proof/Machine/BlockCipher.lean ====
section
/-! DEFINITION. The block cipher and the commands `ENC` and `DEC` (spec/43_block_cipher.md R200 to R207). -/

namespace Sys2Proof.Machine

/-- Rounds 1 to `n` of an encryption, in ascending order (R200). -/
def forwardRounds (ctx : Context) : Nat → List Column → List Column
  | 0, a => a
  | n + 1, a => forwardRound ctx (forwardRounds ctx n a) (n + 1)

/-- Inverse rounds `n` down to 1 (R201). -/
def inverseRounds (ctx : Context) : Nat → List Column → List Column
  | 0, a => a
  | n + 1, a => inverseRounds ctx n (inverseRound ctx a (n + 1))

/-- The encryption of a cipher state. -/
def encryptState (ctx : Context) (a : List Column) : List Column :=
  finalRound ctx (forwardRounds ctx (ctx.nr.toNat - 1) (addRoundKey ctx a 0))

/-- The decryption of a cipher state. -/
def decryptState (ctx : Context) (a : List Column) : List Column :=
  addRoundKey ctx (inverseRounds ctx (ctx.nr.toNat - 1) (inverseFinalRound ctx a)) 0

/-- `EncryptBlock(P)` (R200). -/
def encryptBlock (ctx : Context) (p : List Byte) : List Byte := storeState (encryptState ctx (loadState p ctx.nb.toNat))

/-- `DecryptBlock(C)` (R201). -/
def decryptBlock (ctx : Context) (c : List Byte) : List Byte := storeState (decryptState ctx (loadState c ctx.nb.toNat))

/-- One block of `DBUF` through a block function: `MemRead(SRC, BB)`, then `MemWrite(DST, BB, OUT)` (R202, R203). -/
def transformBlock (f : Context → List Byte → List Byte) (s : State) : State :=
  s.setDbuf (memWrite s.dbuf (dstBlock s 0) (f s.ctx (memRead s.dbuf (srcBlock s 0) (blockBytes s.ctx))))

/-- What `ENC` and `DEC` share (R202, R203): the checks in their order, then the block. A keyed context that 10 R25 rules out
stops the model (log entry 5). -/
def blockCommand (f : Context → List Byte → List Byte) (s : State) : Host.Outcome State Fault Refusal :=
  if s.ctx.keyed = false then raise .notKeyed s
  else if ¬ s.ctx.Legal then .fault .contextOutsideInvariant
  else if OutOfRange s (blockBytes s.ctx) then raise .addressRange s
  else succeed (transformBlock f s)

/-- `ENC` (R202). -/
def execEnc (s : State) : Host.Outcome State Fault Refusal := blockCommand encryptBlock (s.setCmd (encode .enc))

/-- `DEC` (R203). -/
def execDec (s : State) : Host.Outcome State Fault Refusal := blockCommand decryptBlock (s.setCmd (encode .dec))

end Sys2Proof.Machine
end

