-- ==== Sys2Proof/Machine/Cbc.lean ====
section
/-! DEFINITION. The CBC chaining layer and the commands `CBCE` and `CBCD` (spec/44_cbc.md R215 to R227). -/

namespace Sys2Proof.Machine

/-! ### The functions -/

/-- `CbcEncrypt(R, X)` over `m` blocks (R216): the output and the new chaining value. -/
def cbcEncrypt (ctx : Context) : Nat → List Byte → List Byte → List Byte × List Byte
  | 0, r, _ => ([], r)
  | m + 1, r, x =>
    let c := encryptBlock ctx (xorBytes (x.take (blockBytes ctx)) r)
    let rest := cbcEncrypt ctx m c (x.drop (blockBytes ctx))
    (c ++ rest.1, rest.2)

/-- `CbcDecrypt(R, X)` over `m` blocks (R217): the register takes the input block. -/
def cbcDecrypt (ctx : Context) : Nat → List Byte → List Byte → List Byte × List Byte
  | 0, r, _ => ([], r)
  | m + 1, r, x =>
    let c := x.take (blockBytes ctx)
    let p := xorBytes (decryptBlock ctx c) r
    let rest := cbcDecrypt ctx m c (x.drop (blockBytes ctx))
    (p ++ rest.1, rest.2)

/-! ### The commands -/

/-- Block `i` of `CBCE` (R218): read the whole block, encrypt, write it, update the register (20 R73). -/
def cbceBlock (cr : ChainReg) (i : Nat) (s : State) : State :=
  let inp := memRead s.dbuf (srcBlock s i) (blockBytes s.ctx)
  let out := encryptBlock s.ctx (xorBytes inp (chainValue s cr))
  setChainValue (s.setDbuf (memWrite s.dbuf (dstBlock s i) out)) cr out

/-- Block `i` of `CBCD` (R220): the register takes the block as it was read. -/
def cbcdBlock (cr : ChainReg) (i : Nat) (s : State) : State :=
  let inp := memRead s.dbuf (srcBlock s i) (blockBytes s.ctx)
  let out := xorBytes (decryptBlock s.ctx inp) (chainValue s cr)
  setChainValue (s.setDbuf (memWrite s.dbuf (dstBlock s i) out)) cr inp

/-- Blocks `0 .. n-1` in ascending order (R218, R220). -/
def runBlocks (f : Nat → State → State) : Nat → State → State
  | 0, s => s
  | n + 1, s => f n (runBlocks f n s)

/-- What `CBCE` and `CBCD` share (R218, R220): the checks in their order, then the blocks. A keyed context that 10 R25 rules
out stops the model (log entry 5). -/
def chainedCommand (f : Nat → State → State) (s : State) : Host.Outcome State Fault Refusal :=
  if s.ctx.keyed = false then raise .notKeyed s
  else if ¬ s.ctx.Legal then .fault .contextOutsideInvariant
  else if BadLength s then raise .invalidLength s
  else if OutOfRange s s.len.toNat then raise .addressRange s
  else succeed (runBlocks f (blockCount s) s)

/-- `CBCE cr<n>` (R218). -/
def execCbce (cr : ChainReg) (s : State) : Host.Outcome State Fault Refusal :=
  chainedCommand (cbceBlock cr) (s.setCmd (encode (.cbce cr)))

/-- `CBCD cr<n>` (R220). -/
def execCbcd (cr : ChainReg) (s : State) : Host.Outcome State Fault Refusal :=
  chainedCommand (cbcdBlock cr) (s.setCmd (encode (.cbcd cr)))

end Sys2Proof.Machine
end

