-- ==== Sys2Proof/Machine/KeySchedule.lean ====
section
/-! DEFINITION. The key schedule expander and the command `SETKEY` (spec/41_key_schedule.md R150 to R162). -/

namespace Sys2Proof.Machine

/-- `RotWord(w)`: one byte toward the most significant end (R155). -/
def rotWord (w : Word) : Word := wordOf (wordByte w 1) (wordByte w 2) (wordByte w 3) (wordByte w 0)

/-- `SubWord(w)`: each byte through the forward S-box (R156). -/
def subWord (w : Word) : Word :=
  wordOf (sbox (wordByte w 0)) (sbox (wordByte w 1)) (sbox (wordByte w 2)) (sbox (wordByte w 3))

/-- The value combined with `W[i-Nk]` at index `i` (R154): `W[i-1]`, rotated, substituted and combined with the round
constant, or substituted, or as it is. -/
def keyTemp (nk i : Nat) (rc : Byte) (prev : Word) : Word :=
  if i % nk = 0 then subWord (rotWord prev) ^^^ wordOf rc 0 0 0
  else if 6 < nk ∧ i % nk = 4 then subWord prev
  else prev

/-- The round constant after index `i`: doubled after each use (R154, R157). -/
def nextRc (nk i : Nat) (rc : Byte) : Byte := if i % nk = 0 then xtime rc else rc

/-- The schedule word `W[i]` from the words before it (R154). -/
def scheduleWord (nk i : Nat) (rc : Byte) (w : List Word) : Word :=
  keyTemp nk i rc (w.getD (i - 1) 0) ^^^ w.getD (i - nk) 0

/-- `n` more schedule words, from index `i` on (the loop of R162). -/
def expandFrom (nk : Nat) : Nat → Nat → Byte → List Word → List Word
  | 0, _, _, w => w
  | n + 1, i, rc, w => expandFrom nk n (i + 1) (nextRc nk i rc) (w ++ [scheduleWord nk i rc w])

/-- The first `Nk` words: the key bytes, four to a word (R153). -/
def keyWords (key : List Byte) (nk : Nat) : List Word := (List.range nk).map (wordAt key)

/-- `ExpandKey(key, Nk, Nb)` (R162). -/
def expandKey (key : List Byte) (nk nb : Nat) : List Word :=
  expandFrom nk (scheduleLength nk nb - nk) nk 0x01#8 (keyWords key nk)

/-- The context that a successful `SETKEY` leaves (R158). -/
def keyedContext (key : List Byte) (nk nb : Nat) : Context :=
  { nb := BitVec.ofNat 4 nb
    nk := BitVec.ofNat 4 nk
    nr := BitVec.ofNat 4 (roundCount nk nb)
    keyed := true
    rklen := BitVec.ofNat 7 (scheduleLength nk nb)
    rk := expandKey key nk nb }

/-- The key bytes `KEYIN[0 .. 4*Nk - 1]`; the rest is not read (R159). -/
def keyBytes (s : State) (nk : Nat) : List Byte := bufTake s.keyin (4 * nk)

/-- `SETKEY kbits, bbits` (R150). -/
def execSetkey (kbits bbits : Nat) (s : State) : Host.Outcome State Fault Refusal :=
  let s := s.setCmd (encode (.setkey kbits bbits))
  if Config.LegalSize kbits ∧ Config.LegalSize bbits then
    let nk := wordsOfBits kbits
    succeed (s.setCtx (keyedContext (keyBytes s nk) nk (wordsOfBits bbits)))
  else raise .invalidParameter s

end Sys2Proof.Machine
end

