-- ==== Sys2Proof/Machine/Dispatch.lean ====
section
/-! DEFINITION. The one match from commands to their meanings. -/

namespace Sys2Proof.Machine

def exec (i : Instr) (s : State) : Host.Outcome State Fault Refusal :=
  match i with
  | .setkey kbits bbits => Sys2Proof.Machine.execSetkey kbits bbits s
  | .enc => Sys2Proof.Machine.execEnc s
  | .dec => Sys2Proof.Machine.execDec s
  | .cbce cr => Sys2Proof.Machine.execCbce cr s
  | .cbcd cr => Sys2Proof.Machine.execCbcd cr s

end Sys2Proof.Machine
end

