-- ==== Sys2Proof/Machine/Reset.lean ====
section
/-! DEFINITION. The reset (spec/70_reset_and_hazards.md R300, R301, spec/10_state.md R38), at any time: between commands, and
inside one at the state machine level, where what the command has written so far stays written. -/

namespace Sys2Proof.Machine

/-- How many blocks a running data command has written to `DBUF`: block `blk` is written by `B_STORE` and counted by `B_CHAIN`
(46 R270, R271). In `DONE` a command without an error has written the blocks it counted, one with an error none (46 R262). -/
def storedByFsm (s : State) : Nat :=
  match s.work.fsm with
  | .idle => 0
  | .check => 0
  | .ksLoad => 0
  | .ksStep => 0
  | .bFetch => s.work.blk.toNat
  | .bPre => s.work.blk.toNat
  | .bRound => s.work.blk.toNat
  | .bPost => s.work.blk.toNat
  | .bStore => s.work.blk.toNat
  | .bChain => s.work.blk.toNat + 1
  | .done => if s.err = errCode .ok then s.work.blk.toNat else 0

/-- Whether `B_CHAIN` has passed at least once since the command in `CMD` started (46 R271). -/
def chainUpdatedByFsm (s : State) : Bool :=
  match s.work.fsm with
  | .idle => false
  | .check => false
  | .ksLoad => false
  | .ksStep => false
  | .bFetch => decide (0 < s.work.blk.toNat)
  | .bPre => decide (0 < s.work.blk.toNat)
  | .bRound => decide (0 < s.work.blk.toNat)
  | .bPost => decide (0 < s.work.blk.toNat)
  | .bStore => decide (0 < s.work.blk.toNat)
  | .bChain => decide (0 < s.work.blk.toNat)
  | .done => decide (s.err = errCode .ok ∧ 0 < s.work.blk.toNat)

/-- How many blocks the command in progress has written to `DBUF` so far. `SETKEY` and an illegal word write none. -/
def blocksStored (s : State) : Nat :=
  match decode s.cmd with
  | .illegal _ => 0
  | .command (.setkey _ _) => 0
  | .command .enc => storedByFsm s
  | .command .dec => storedByFsm s
  | .command (.cbce _) => storedByFsm s
  | .command (.cbcd _) => storedByFsm s

/-- Whether the command in progress has written bytes `0 .. BB-1` of a chaining register so far: only a chained command that
names it does. -/
def chainWritten (s : State) (cr : ChainReg) : Bool :=
  match decode s.cmd with
  | .illegal _ => false
  | .command (.setkey _ _) => false
  | .command .enc => false
  | .command .dec => false
  | .command (.cbce n) => decide (n = cr) && chainUpdatedByFsm s
  | .command (.cbcd n) => decide (n = cr) && chainUpdatedByFsm s

/-- The bytes of the output range that the command in progress has written so far, cut at the end of `DBUF`. -/
def writtenBytes (s : State) : List Byte :=
  memRead s.dbuf s.dst.toNat (min (blocksStored s * blockBytes s.ctx) (Config.dbufBytes - s.dst.toNat))

/-- `DBUF` after a reset: the drawn bytes (10 R38, unspecified), over them what a command in progress has written (R301). -/
def resetDbuf (drawn : List Byte) (s : State) : List Host.Cell :=
  memWrite (memWrite [] 0 (drawn.take Config.dbufBytes)) s.dst.toNat (writtenBytes s)

/-- A chaining register after a reset: the drawn bytes (10 R38, unspecified), but for what a command in progress has written
(R301). -/
def resetCr (drawn : Vector Byte 32) (s : State) (cr : ChainReg) : Vector Byte 32 :=
  if chainWritten s cr then bufPut drawn (chainValue s cr) else drawn

/-- The reset (R301, 10 R38): control state to its reset values, the unspecified data state to the drawn bytes. A reset during a
command abandons it, and what it has written to `DBUF` or a chaining register stays written (log entry 7). The host's later
accesses and what it last read are no state of the engine and stay. -/
def applyReset (draw : ResetDraw) (s : State) : State :=
  { State.reset with
    keyin := draw.keyin
    cr0 := resetCr draw.cr0 s .cr0
    cr1 := resetCr draw.cr1 s .cr1
    dbuf := resetDbuf draw.dbuf s
    port := s.port
    rdata := s.rdata }

end Sys2Proof.Machine
end

