-- ==== Sys2Proof/Machine/Port.lean ====
section
/-! DEFINITION. The host port (spec/45_host_interface.md R240 to R248, spec/10_state.md R37): reads, writes, the issue of a
command, and the service of one host access at the command level. -/

namespace Sys2Proof.Machine

/-- A word of the schedule window: `RK[i]` for `i < RKLEN`, else 0 (R247). -/
def scheduleWindow (c : Context) (i : Nat) : Word := if i < c.rklen.toNat then c.rk.getD i 0 else 0

/-- A word of the data window: bytes `4k .. 4k+3` of `DBUF` (R248). -/
def dbufWord (m : List Host.Cell) (k : Nat) : Word := wordAt (memRead m (4 * k) 4) 0

/-- What a word index selects (10 R37). -/
inductive PortReg where
  | cmd
  | status
  | src
  | dst
  | len
  | cfg
  | keyinW (j : Nat)
  | crW (cr : ChainReg) (j : Nat)
  | rkW (i : Nat)
  | dbufW (k : Nat)
  /-- Reserved or unmapped. -/
  | none
  deriving DecidableEq, Repr

/-- The host register map (10 R37). -/
def portMap (wa : Nat) : PortReg :=
  if wa = 0x000 then .cmd
  else if wa = 0x001 then .status
  else if wa = 0x002 then .src
  else if wa = 0x003 then .dst
  else if wa = 0x004 then .len
  else if wa = 0x005 then .cfg
  else if 0x008 ≤ wa ∧ wa ≤ 0x00F then .keyinW (wa - 0x008)
  else if 0x010 ≤ wa ∧ wa ≤ 0x017 then .crW .cr0 (wa - 0x010)
  else if 0x018 ≤ wa ∧ wa ≤ 0x01F then .crW .cr1 (wa - 0x018)
  else if 0x080 ≤ wa ∧ wa ≤ 0x0F7 then .rkW (wa - 0x080)
  else if 0x400 ≤ wa ∧ wa < 0x400 + Config.dbufBytes / 4 then .dbufW (wa - 0x400)
  else .none

/-- `HostRead(wa)`: the value returned (R241). No read changes the engine. -/
def hostRead (wa : Nat) (s : State) : Word :=
  match portMap wa with
  | .cmd => s.cmd
  | .status => statusWord s
  | .src => s.src
  | .dst => s.dst
  | .len => s.len
  | .cfg => cfgWord s
  | .keyinW j => bufWord s.keyin j
  | .crW cr j => bufWord (s.cr cr) j
  | .rkW i => scheduleWindow s.ctx i
  | .dbufW k => dbufWord s.dbuf k
  | .none => 0

/-- A write that only stores (R242): `SRC`, `DST`, `LEN`, `KEYIN_W`, `CRn_W`, `DBUF_W`; no effect on the read-only, reserved
and unmapped indexes (R246). A write to `CMD` is no such write (`issue`). -/
def storeWrite (wa : Nat) (d : Word) (s : State) : State :=
  match portMap wa with
  | .src => { s with src := d }
  | .dst => { s with dst := d }
  | .len => { s with len := d }
  | .keyinW j => { s with keyin := bufSetWord s.keyin j d }
  | .crW cr j => s.setCr cr (bufSetWord (s.cr cr) j d)
  | .dbufW k => s.setDbuf (memWrite s.dbuf (4 * k) (wordBytes d))
  | .cmd => s
  | .status => s
  | .cfg => s
  | .rkW _ => s
  | .none => s

/-- The `CMD` write itself: `CMD <- d`, `BUSY <- 1` (R244, 10 R40). -/
def acceptCommand (d : Word) (s : State) : State := { s with cmd := d, busy := true }

/-- `HostWrite(0x000, d)` as one atomic step (R244): the word is stored, then the command it decodes to is executed, or
`IllegalCommand` is raised. -/
def issue (d : Word) (s : State) : Host.Outcome State Fault Refusal :=
  match decode d with
  | .command i => exec i (acceptCommand d s)
  | .illegal _ => raise .illegalCommand (acceptCommand d s)

/-- `HostWrite(wa, d)` (R242). -/
def hostWrite (wa : Nat) (d : Word) (s : State) : Host.Outcome State Fault Refusal :=
  if wa = 0x000 then issue d s else .next (storeWrite wa d s)

/-- One host access at the command level. While `BUSY = 1` only a read of `STATUS` is allowed (20 R75); at this level `BUSY`
is 0 between accesses. -/
def serve (e : HostAccess) (s : State) : Host.Outcome State Fault Refusal :=
  match e with
  | .wait => .next s
  | .reset draw => .next (applyReset draw s)
  | .read wa =>
    if s.busy = true ∧ wa ≠ 0x001 then .refused .accessWhileBusy
    else .next { s with rdata := some (hostRead wa s) }
  | .write wa d => if s.busy = true then .refused .accessWhileBusy else hostWrite wa d s

end Sys2Proof.Machine
end

