-- ==== Sys2Proof/Machine/Step.lean ====
section
/-! DEFINITION. One step of the engine at the command level (spec/00_scope.md R10): the next host access, or none. -/

namespace Sys2Proof.Machine

/-- The host's next access is served; with none, the engine waits (spec/60_exceptions.md R293). -/
def step (s : State) : Host.Outcome State Fault Refusal :=
  match s.port with
  | [] => .next s
  | e :: rest => serve e { s with port := rest }

/-- The state in which the host's next access is the write of this word to `CMD`. There is no fetch (10 R36): a command comes
to run by that write (log entry 1). The engine is idle, as it must be to take it (46 R261). -/
def State.withFetchWord (s : State) (nbits w : Nat) : State :=
  { s with
    port := .write 0x000 (BitVec.ofNat 32 (w % 2 ^ nbits)) :: s.port
    busy := false
    work := { s.work with fsm := .idle } }

end Sys2Proof.Machine
end

