-- ==== Sys2Proof/Machine/Script.lean ====
section
/-! DEFINITION. The script lines and pseudo-instructions of spec/30_encoding.md R101, R102 and the three interface functions of
spec/45_host_interface.md R249: the host accesses they expand to, and the procedures as the host runs them, with the reads it
makes only after a success and the result it takes from `STATUS`. -/

namespace Sys2Proof.Machine

/-- The writes of the words of a byte string to consecutive word indexes, a last partial word filled with 0x00. -/
def writeWords (wa : Nat) (b : List Byte) : List HostAccess :=
  (List.range ((b.length + 3) / 4)).map fun j => .write (wa + j) (wordAt b j)

/-- The reads of the words that hold `n` bytes from a word index on. -/
def readWords (wa n : Nat) : List HostAccess := (List.range (n / 4)).map fun j => .read (wa + j)

/-- `LOADKEY` (R102). -/
def loadKey (key : List Byte) : List HostAccess := writeWords 0x008 key

/-- The word index of `CRn_W[0]` (10 R37). -/
def crWindow : ChainReg → Nat
  | .cr0 => 0x010
  | .cr1 => 0x018

/-- `LOADCR cr<n>` (R102). -/
def loadCr (cr : ChainReg) (b : List Byte) : List HostAccess := writeWords (crWindow cr) b

/-- `LOADBUF <offset>`, the offset a multiple of 4 (R102). -/
def loadBuf (offset : Nat) (b : List Byte) : List HostAccess := writeWords (0x400 + offset / 4) b

/-- `EXPECTBUF <offset>` of `n` bytes: its reads (R102). -/
def readBuf (offset n : Nat) : List HostAccess := readWords (0x400 + offset / 4) n

/-- `EXPECTCR cr<n>` of `n` bytes: its reads (R102). -/
def readCr (cr : ChainReg) (n : Nat) : List HostAccess := readWords (crWindow cr) n

/-- A command line of a script: the write of its word to `CMD` (R101). -/
def commandLine (i : Instr) : List HostAccess := [.write 0x000 (encode i)]

/-- The accesses of the key-setup procedure (45 R249 a). The key is written for a legal key size only: for another the host may
skip it. A size of 4096 or more fits no word, so there are no accesses. -/
def keySetup (key : List Byte) (kbits bbits : Nat) : Option (List HostAccess) :=
  if WellFormed (.setkey kbits bbits) then
    some ((if Config.LegalSize kbits then writeWords 0x008 (key.take (kbits / 8)) else []) ++
      commandLine (.setkey kbits bbits) ++ [.read 0x001])
  else none

/-- The accesses of the single-block procedure up to its result code (45 R249 b); `i` is `ENC` or `DEC`. -/
def blockCall (i : Instr) (input : List Byte) (src dst : Nat) : List HostAccess :=
  loadBuf src input ++ [.write 0x002 (BitVec.ofNat 32 src), .write 0x003 (BitVec.ofNat 32 dst)] ++
    commandLine i ++ [.read 0x001]

/-- The accesses of the chained procedure up to its result code, without the initialisation vector (45 R249 c); `i` is a
`CBCE` or a `CBCD`. -/
def chainedCall (i : Instr) (input : List Byte) (src dst : Nat) : List HostAccess :=
  loadBuf src input ++
    [.write 0x002 (BitVec.ofNat 32 src), .write 0x003 (BitVec.ofNat 32 dst),
      .write 0x004 (BitVec.ofNat 32 input.length)] ++
    commandLine i ++ [.read 0x001]

/-- The initialisation vector's writes, which the chained procedure makes on the first call of a message only (45 R249 c). -/
def ivWrites (cr : ChainReg) : Option (List Byte) → List HostAccess
  | some iv => loadCr cr iv
  | none => []

/-! ### The procedures as the host runs them -/

/-- The value an access returned to the host, in the state after it. -/
def readValue (e : HostAccess) (t : State) : List Word :=
  match e with
  | .read _ => t.rdata.toList
  | .write _ _ => []
  | .wait => []
  | .reset _ => []

/-- Accesses made one after another at the command level: the values read, in order, and the state after them. -/
def perform : List HostAccess → State → Host.Outcome (List Word × State) Fault Refusal
  | [], s => .next ([], s)
  | e :: rest, s =>
    match serve e s with
    | .next t =>
      match perform rest t with
      | .next (values, u) => .next (readValue e t ++ values, u)
      | .fault r => .fault r
      | .refused r => .refused r
    | .fault r => .fault r
    | .refused r => .refused r

/-- What a procedure gives its caller: the result code, the output words (none after an error), and the engine after it. -/
structure Reply where
  code : BitVec 4
  output : List Word
  state : State
  deriving DecidableEq, Repr

/-- The field `[7:4]` of the last value read, which is `STATUS` (45 R249). -/
def resultCode (values : List Word) : BitVec 4 := (values.getLastD 0).extractLsb' 4 4

/-- What the three procedures share (45 R249): the accesses of the call, the last of which reads `STATUS`; then, only if the
result code is 0, the reads of the output. -/
def procedure (call outputReads : List HostAccess) (s : State) : Host.Outcome Reply Fault Refusal :=
  match perform call s with
  | .next (values, t) =>
    if resultCode values = errCode .ok then
      match perform outputReads t with
      | .next (output, u) => .next { code := resultCode values, output := output, state := u }
      | .fault r => .fault r
      | .refused r => .refused r
    else .next { code := resultCode values, output := [], state := t }
  | .fault r => .fault r
  | .refused r => .refused r

/-- Key setup (45 R249 a). A size that fits no word is reported as `InvalidParameter` without a command. -/
def runKeySetup (key : List Byte) (kbits bbits : Nat) (s : State) : Host.Outcome Reply Fault Refusal :=
  match keySetup key kbits bbits with
  | some call => procedure call [] s
  | none => .next { code := errCode .invalidParameter, output := [], state := s }

/-- Single-block transform (45 R249 b): encrypts or decrypts one block, at word-aligned offsets of the host's choice. -/
def runBlock (encrypt : Bool) (input : List Byte) (src dst : Nat) (s : State) : Host.Outcome Reply Fault Refusal :=
  procedure (blockCall (if encrypt then .enc else .dec) input src dst) (readBuf dst input.length) s

/-- Chained transform (45 R249 c), with the initialisation vector on the first call of a message. -/
def runChained (encrypt : Bool) (cr : ChainReg) (iv : Option (List Byte)) (input : List Byte) (src dst : Nat) (s : State) :
    Host.Outcome Reply Fault Refusal :=
  procedure (ivWrites cr iv ++ chainedCall (if encrypt then .cbce cr else .cbcd cr) input src dst)
    (readBuf dst input.length) s

end Sys2Proof.Machine
end

