-- ==== Sys2Proof/Machine/Fsm.lean ====
section
/-! DEFINITION. The control state machine (spec/46_control_fsm.md R260 to R273), a refinement of the command level over the same
state: `tick` is one transition of the machine, `cycle` one step of the machine and its host. -/

namespace Sys2Proof.Machine

/-- `fsm <- q`. -/
def State.goto (s : State) (q : FsmState) : State := s.setWork { s.work with fsm := q }

/-- `IDLE` on `HostWrite(0x000, d)`: `CMD <- d`, `BUSY <- 1`, `fsm <- CHECK` (R261). -/
def startCommand (d : Word) (s : State) : State := (acceptCommand d s).goto .check

/-- `CHECK` for a data command without an error (R262): the latches and the block counters. -/
def startBlocks (dir chain : Bool) (n : Nat) (s : State) : State :=
  s.setWork { s.work with
    dir := dir
    chain := chain
    nblk := BitVec.ofNat 32 n
    blk := 0
    fsm := if n = 0 then .done else .bFetch }

/-- Where `CHECK` goes for a command without an error (R262). -/
def checkPassed (i : Instr) (s : State) : State :=
  match i with
  | .setkey _ _ => s.goto .ksLoad
  | .enc => startBlocks false false 1 s
  | .dec => startBlocks true false 1 s
  | .cbce _ => startBlocks false true (blockCount s) s
  | .cbcd _ => startBlocks true true (blockCount s) s

/-- `ERR <- e`. -/
def State.setErr (s : State) (e : ErrorCode) : State := { s with err := errCode e }

/-- Whether a command needs the context, so that a keyed one must be as 10 R25 says. -/
def needsContext : Instr → Bool
  | .setkey _ _ => false
  | .enc => true
  | .dec => true
  | .cbce _ => true
  | .cbcd _ => true

/-- `CHECK` (R262). -/
def fsmCheck (s : State) : Host.Outcome State Fault Refusal :=
  match decode s.cmd with
  | .illegal _ => .next ((s.setErr .illegalCommand).goto .done)
  | .command i =>
    if needsContext i = true ∧ s.ctx.keyed = true ∧ ¬ s.ctx.Legal then .fault .contextOutsideInvariant
    else match firstError i s with
      | some e => .next ((s.setErr e).goto .done)
      | none => .next (checkPassed i (s.setErr .ok))

/-- `KS_LOAD` (R263): `KEYED <- 0`, the sizes, the first `NK` words, `rc`, `kidx`. -/
def fsmKsLoad (s : State) : State :=
  let nk := wordsOfBits (fieldKbits s.cmd).toNat
  let nb := wordsOfBits (fieldBbits s.cmd).toNat
  let ctx : Context :=
    { nb := BitVec.ofNat 4 nb
      nk := BitVec.ofNat 4 nk
      nr := BitVec.ofNat 4 (roundCount nk nb)
      keyed := false
      rklen := BitVec.ofNat 7 (scheduleLength nk nb)
      rk := keyWords (keyBytes s nk) nk }
  (s.setCtx ctx).setWork { s.work with rc := 0x01#8, kidx := BitVec.ofNat 7 nk, fsm := .ksStep }

/-- `KS_STEP` (R264): one word of the schedule. -/
def fsmKsStep (s : State) : State :=
  let nk := s.ctx.nk.toNat
  let i := s.work.kidx.toNat
  let last := decide (i + 1 = s.ctx.rklen.toNat)
  let rk := s.ctx.rk ++ [scheduleWord nk i s.work.rc s.ctx.rk]
  let ctx := if last then { s.ctx with rk := rk, keyed := true } else { s.ctx with rk := rk }
  (s.setCtx ctx).setWork { s.work with
    rc := nextRc nk i s.work.rc
    kidx := BitVec.ofNat 7 (i + 1)
    fsm := if last then .done else .ksStep }

/-- The chaining register of the running command, `CR[CMD[0]]` (R260). -/
def fsmCr (s : State) : ChainReg := fieldCr s.cmd

/-- `IN[0 .. BB-1]`. -/
def fsmIn (s : State) : List Byte := bufTake s.work.inp (blockBytes s.ctx)

/-- `OUT[0 .. BB-1]`. -/
def fsmOut (s : State) : List Byte := bufTake s.work.out (blockBytes s.ctx)

/-- The used columns of `A`. -/
def fsmA (s : State) : List Column := bufTake s.work.a s.ctx.nb.toNat

/-- `B_FETCH` (R265). -/
def fsmFetch (s : State) : State :=
  s.setWork { s.work with
    inp := bufPut s.work.inp (memRead s.dbuf (srcBlock s s.work.blk.toNat) (blockBytes s.ctx))
    fsm := .bPre }

/-- `B_PRE` (R266). -/
def fsmPre (s : State) : State :=
  let p := if s.work.chain = true ∧ s.work.dir = false then xorBytes (fsmIn s) (chainValue s (fsmCr s)) else fsmIn s
  s.setWork { s.work with
    a := bufPut s.work.a (loadState p s.ctx.nb.toNat)
    rnd := if s.work.dir then s.ctx.nr else 0
    fsm := .bRound }

/-- `B_ROUND`, encryption (R267). -/
def encryptionRound (ctx : Context) (rnd : Nat) (a : List Column) : List Column :=
  if rnd = 0 then addRoundKey ctx a 0
  else if rnd < ctx.nr.toNat then forwardRound ctx a rnd
  else finalRound ctx a

/-- `B_ROUND`, decryption (R268). -/
def decryptionRound (ctx : Context) (rnd : Nat) (a : List Column) : List Column :=
  if rnd = ctx.nr.toNat then inverseFinalRound ctx a
  else if 0 < rnd then inverseRound ctx a rnd
  else addRoundKey ctx a 0

/-- `B_ROUND` (R267, R268): one round, then the next round number or `B_POST`. -/
def fsmRound (s : State) : State :=
  let rnd := s.work.rnd.toNat
  if s.work.dir then
    s.setWork { s.work with
      a := bufPut s.work.a (decryptionRound s.ctx rnd (fsmA s))
      rnd := if rnd = 0 then s.work.rnd else BitVec.ofNat 4 (rnd - 1)
      fsm := if rnd = 0 then .bPost else .bRound }
  else
    s.setWork { s.work with
      a := bufPut s.work.a (encryptionRound s.ctx rnd (fsmA s))
      rnd := if rnd = s.ctx.nr.toNat then s.work.rnd else BitVec.ofNat 4 (rnd + 1)
      fsm := if rnd = s.ctx.nr.toNat then .bPost else .bRound }

/-- `B_POST` (R269). -/
def fsmPost (s : State) : State :=
  let b := storeState (fsmA s)
  let q := if s.work.chain = true ∧ s.work.dir = true then xorBytes b (chainValue s (fsmCr s)) else b
  s.setWork { s.work with out := bufPut s.work.out q, fsm := .bStore }

/-- `B_STORE` (R270). -/
def fsmStore (s : State) : State :=
  (s.setDbuf (memWrite s.dbuf (dstBlock s s.work.blk.toNat) (fsmOut s))).goto .bChain

/-- The register update of `B_CHAIN` (R271): `OUT` for an encryption, `IN` for a decryption, none for `ENC` and `DEC`. -/
def fsmUpdateChain (s : State) : State :=
  if s.work.chain = false then s
  else if s.work.dir then setChainValue s (fsmCr s) (fsmIn s)
  else setChainValue s (fsmCr s) (fsmOut s)

/-- `B_CHAIN` (R271). -/
def fsmChain (s : State) : State :=
  let t := fsmUpdateChain s
  t.setWork { t.work with
    blk := s.work.blk + 1
    fsm := if (s.work.blk + 1).toNat < s.work.nblk.toNat then .bFetch else .done }

/-- `DONE` (R272). -/
def fsmDone (s : State) : State := { s with busy := false }.goto .idle

/-- One transition of the control state machine; in `IDLE` it waits (R261 to R272). -/
def tick (s : State) : Host.Outcome State Fault Refusal :=
  match s.work.fsm with
  | .idle => .next s
  | .check => fsmCheck s
  | .ksLoad => .next (fsmKsLoad s)
  | .ksStep => .next (fsmKsStep s)
  | .bFetch => .next (fsmFetch s)
  | .bPre => .next (fsmPre s)
  | .bRound => .next (fsmRound s)
  | .bPost => .next (fsmPost s)
  | .bStore => .next (fsmStore s)
  | .bChain => .next (fsmChain s)
  | .done => .next (fsmDone s)

/-- `n` transitions, stopping at a fault. -/
def ticks : Nat → State → Host.Outcome State Fault Refusal
  | 0, s => .next s
  | n + 1, s =>
    match tick s with
    | .next t => ticks n t
    | .fault r => .fault r
    | .refused r => .refused r

/-- One host access at the state machine level: as at the command level, but a `CMD` write only starts the command (R261). -/
def serveCycle (e : HostAccess) (s : State) : Host.Outcome State Fault Refusal :=
  match e with
  | .wait => tick s
  | .reset draw => .next (applyReset draw s)
  | .read wa =>
    if s.busy = true ∧ wa ≠ 0x001 then .refused .accessWhileBusy
    else .next { s with rdata := some (hostRead wa s) }
  | .write wa d =>
    if s.busy = true then .refused .accessWhileBusy
    else if wa = 0x000 then .next (startCommand d s)
    else .next (storeWrite wa d s)

/-- One step of the state machine and its host. The list `port` says which of the two moves: an access is served before the
next transition, and where the host waits or has no access left the machine makes a transition (log entry 1). -/
def cycle (s : State) : Host.Outcome State Fault Refusal :=
  match s.port with
  | [] => tick s
  | e :: rest => serveCycle e { s with port := rest }

/-- How many transitions a `CMD` write of `d` takes, from `CHECK` until the machine is back in `IDLE` (R273). -/
def pathLength (d : Word) (s : State) : Nat :=
  match decode d with
  | .illegal _ => 2
  | .command i =>
    match firstError i s with
    | some _ => 2
    | none =>
      match i with
      | .setkey kbits bbits =>
        3 + (scheduleLength (wordsOfBits kbits) (wordsOfBits bbits) - wordsOfBits kbits)
      | .enc => 2 + (s.ctx.nr.toNat + 6)
      | .dec => 2 + (s.ctx.nr.toNat + 6)
      | .cbce _ => 2 + blockCount s * (s.ctx.nr.toNat + 6)
      | .cbcd _ => 2 + blockCount s * (s.ctx.nr.toNat + 6)

end Sys2Proof.Machine
end

