-- ==== Sys2Proof/Safety.lean ====
section
/-! DEFINITION. What claims about the engine are stated in: the invariants between commands, and the vocabulary of whole-machine
rules. -/

namespace Sys2Proof.Machine

/-- The context invariant (spec/10_state.md R25): all zero and empty when unkeyed; legal sizes and the expansion of some key of
the right length when keyed. -/
def Context.Ok (c : Context) : Prop :=
  (c.keyed = false → c = Context.unkeyed) ∧
    (c.keyed = true →
      c.Legal ∧ ∃ key : List Byte, key.length = 4 * c.nk.toNat ∧ c.rk = expandKey key c.nk.toNat c.nb.toNat)

/-- What holds between commands (10 R25, R31, R33; the canonical form of memory): the context is as R25 says, `ERR` holds a code
that is produced, no command is in progress, memory is canonical. -/
def State.Inv (s : State) : Prop :=
  s.ctx.Ok ∧ s.err.toNat ≤ 5 ∧ s.busy = false ∧ s.work.fsm = .idle ∧ Memory.wf s.dbuf = true

/-- The context can run a data command: keyed, with the sizes of 10 R25. -/
abbrev State.Ready (s : State) : Prop := s.ctx.keyed = true ∧ s.ctx.Legal

/-- Two states agree on everything but the hidden registers, which carry nothing between commands (10 R35). -/
def SameArch (s t : State) : Prop := { s with work := t.work } = t

/-- A command ended without an error: the premise of claims about a correct host (spec/60_exceptions.md R291). -/
abbrev State.NoError (s : State) : Prop := s.err = errCode .ok

/-- Input and output ranges of `n` bytes do not overlap harmfully (spec/20_memory.md R73). -/
abbrev HarmlessOverlap (s : State) (n : Nat) : Prop :=
  s.dst.toNat ≤ s.src.toNat ∨ s.src.toNat + n ≤ s.dst.toNat

/-- What no command writes: the operand registers (10 R27, R29), and the host's side of the port. -/
abbrev OperandsKept (s t : State) : Prop :=
  t.keyin = s.keyin ∧ t.src = s.src ∧ t.dst = s.dst ∧ t.len = s.len ∧ t.port = s.port ∧ t.rdata = s.rdata

/-- The command is one of the four data commands (10 R23). -/
abbrev DataCommand (i : Instr) : Prop := ∀ kbits bbits, i ≠ .setkey kbits bbits

/-- A word index whose write only stores (45 R242): `SRC`, `DST`, `LEN`, `KEYIN_W`, `CR0_W`, `CR1_W`, `DBUF_W`. -/
abbrev StoringIndex (wa : Nat) : Prop := (0x002 ≤ wa ∧ wa ≤ 0x004) ∨ (0x008 ≤ wa ∧ wa ≤ 0x01F) ∨ (0x400 ≤ wa ∧ wa ≤ 0x7FF)

/-- A reserved or unmapped word index (10 R37). -/
abbrev ReservedIndex (wa : Nat) : Prop :=
  (0x006 ≤ wa ∧ wa ≤ 0x007) ∨ (0x020 ≤ wa ∧ wa ≤ 0x07F) ∨ (0x0F8 ≤ wa ∧ wa ≤ 0x3FF) ∨ 0x800 ≤ wa

/-- A read-only word index (10 R37): `STATUS`, `CFG`, `RK_W`. -/
abbrev ReadOnlyIndex (wa : Nat) : Prop := wa = 0x001 ∨ wa = 0x005 ∨ (0x080 ≤ wa ∧ wa ≤ 0x0F7)

/-- At the state machine level the schedule is never partially valid (10 R24, 46 R263): a keyed context is whole; `KS_LOAD` is
entered with legal sizes only; while `KS_STEP` runs the context is unkeyed, its sizes are legal and the words so far are
those below `kidx`. -/
def State.ScheduleWhole (s : State) : Prop :=
  (s.ctx.keyed = true → s.ctx.Legal) ∧
    (s.work.fsm = .ksLoad →
      ∃ kbits bbits, decode s.cmd = .command (.setkey kbits bbits) ∧ Config.LegalSize kbits ∧ Config.LegalSize bbits) ∧
    (s.work.fsm = .ksStep →
      s.ctx.keyed = false ∧ LegalWords s.ctx.nb.toNat ∧ LegalWords s.ctx.nk.toNat ∧
        s.ctx.nr.toNat = roundCount s.ctx.nk.toNat s.ctx.nb.toNat ∧
        s.ctx.rklen.toNat = scheduleLength s.ctx.nk.toNat s.ctx.nb.toNat ∧
        s.ctx.rk.length = s.work.kidx.toNat ∧ s.work.kidx.toNat < s.ctx.rklen.toNat)

end Sys2Proof.Machine
end

