-- ==== Sys2Proof/Certificates/Slice0/Obligations.lean ====
section
/-! DEFINITION. The statements about the engine for the provers, each citing the rules of spec/ it rests on. Names of the model are
those of Sys2Proof/Machine and Sys2Proof/Safety.lean. -/

open Sys2Proof Sys2Proof.Machine

/-! ### Command words -/

/-- 30 R92 to R96, R103: every well-formed command is read back from its word, with every operand at every value. -/
def Obligations.EveryCommandIsReadBackFromItsWord : Prop :=
  ∀ i : Instr, WellFormed i → decode (encode i) = .command i

/-- 30 R96, R103: a word that decodes to a command is that command's own word, and the command is well-formed. -/
def Obligations.ADecodedWordIsTheCommandsWord : Prop :=
  ∀ (w : Word) (i : Instr), decode w = .command i → WellFormed i ∧ encode i = w

/-- 30 R96: a word is the command exactly when `w & mask = match`. -/
def Obligations.DecodingIsMatchUnderMask : Prop :=
  ∀ w : Word,
    ((∃ kbits bbits, decode w = .command (.setkey kbits bbits)) ↔ w &&& 0xFF000000#32 = 0x10000000#32) ∧
    (decode w = .command .enc ↔ w &&& 0xFFFFFFFF#32 = 0x20000000#32) ∧
    (decode w = .command .dec ↔ w &&& 0xFFFFFFFF#32 = 0x30000000#32) ∧
    ((∃ cr, decode w = .command (.cbce cr)) ↔ w &&& 0xFFFFFFFE#32 = 0x40000000#32) ∧
    ((∃ cr, decode w = .command (.cbcd cr)) ↔ w &&& 0xFFFFFFFE#32 = 0x50000000#32)

/-- 30 R92 to R96 and 95 sections 2.4, 2.6: words written out from the encodings decode to what they stand for. -/
def Obligations.WordsFromTheEncodingTableDecode : Prop :=
  decode 0x10080080#32 = .command (.setkey 128 128) ∧
  decode 0x100C0100#32 = .command (.setkey 256 192) ∧
  decode 0x100800A0#32 = .command (.setkey 160 128) ∧
  decode 0x10FFFFFF#32 = .command (.setkey 4095 4095) ∧
  decode 0x20000000#32 = .command .enc ∧
  decode 0x30000000#32 = .command .dec ∧
  decode 0x40000000#32 = .command (.cbce .cr0) ∧
  decode 0x40000001#32 = .command (.cbce .cr1) ∧
  decode 0x50000000#32 = .command (.cbcd .cr0) ∧
  decode 0x50000001#32 = .command (.cbcd .cr1) ∧
  decode 0x11080080#32 = .illegal .reservedBits ∧
  decode 0x20000001#32 = .illegal .reservedBits ∧
  decode 0x40000002#32 = .illegal .reservedBits ∧
  decode 0x60000000#32 = .illegal .noSuchOp

/-- 30 R97: which words are illegal, and that writing one to `CMD` stores it, sets `ERR` to 5 and changes nothing else. -/
def Obligations.IllegalWordsSetErrAndNothingElse : Prop :=
  (∀ w : Word, (∃ why, decode w = .illegal why) ↔
    ((w.extractLsb' 28 4).toNat = 0 ∨ 6 ≤ (w.extractLsb' 28 4).toNat) ∨
    ((w.extractLsb' 28 4).toNat = 1 ∧ w.extractLsb' 24 4 ≠ 0#4) ∨
    (((w.extractLsb' 28 4).toNat = 2 ∨ (w.extractLsb' 28 4).toNat = 3) ∧ w.extractLsb' 0 28 ≠ 0#28) ∨
    (((w.extractLsb' 28 4).toNat = 4 ∨ (w.extractLsb' 28 4).toNat = 5) ∧ w.extractLsb' 1 27 ≠ 0#27)) ∧
  (∃ why, decode 0x00000000#32 = .illegal why) ∧
  (∃ why, decode 0xFFFFFFFF#32 = .illegal why) ∧
  ∀ (s : State) (w : Word) (why : IllegalWord) (rest : List HostAccess),
    s.port = .write 0x000 w :: rest → s.busy = false → decode w = .illegal why →
      step s = .next { s with port := rest, cmd := w, err := 5 }

/-- 45 R244: a `CMD` write of a command's word stores it, marks the engine busy and executes the command, in one step. -/
def Obligations.AStepExecutesTheDecodedCommand : Prop :=
  ∀ (s : State) (d : Word) (i : Instr) (rest : List HostAccess),
    s.port = .write 0x000 d :: rest → s.busy = false → decode d = .command i →
      step s = exec i { s with port := rest, cmd := d, busy := true }

/-! ### SETKEY and the key schedule -/

/-- 41 R152, R158, R159: `SETKEY` with legal sizes replaces the context whole by the expansion of the first `kbits/8` bytes of
`KEYIN`, keyed, and changes nothing else but `CMD` and `ERR`. -/
def Obligations.SetkeyReplacesTheContextWhole : Prop :=
  ∀ (s : State) (kbits bbits : Nat), Config.LegalSize kbits → Config.LegalSize bbits →
    ∃ t, exec (.setkey kbits bbits) s = .next t ∧
      t.ctx.nb.toNat = bbits / 32 ∧ t.ctx.nk.toNat = kbits / 32 ∧
      t.ctx.nr.toNat = max (bbits / 32) (kbits / 32) + 6 ∧
      t.ctx.rklen.toNat = (t.ctx.nr.toNat + 1) * (bbits / 32) ∧
      t.ctx.rk = expandKey (s.keyin.toList.take (kbits / 8)) (kbits / 32) (bbits / 32) ∧
      t.ctx.rk.length = (t.ctx.nr.toNat + 1) * (bbits / 32) ∧
      t.ctx.keyed = true ∧
      t.cmd = encode (.setkey kbits bbits) ∧ t.err = 0 ∧ t.busy = false ∧
      t.cr0 = s.cr0 ∧ t.cr1 = s.cr1 ∧ t.dbuf = s.dbuf ∧ OperandsKept s t

/-- 41 R151: `SETKEY` with a size outside {128, 192, 256} sets `ERR` to 1 and keeps the context, keyed or not. For a size of 4096
or more, which no word can hold, the word in `CMD` is the model's choice (log entry 10). -/
def Obligations.SetkeyRejectsIllegalSizes : Prop :=
  ∀ (s : State) (kbits bbits : Nat), ¬ (Config.LegalSize kbits ∧ Config.LegalSize bbits) →
    exec (.setkey kbits bbits) s = .next { s with cmd := encode (.setkey kbits bbits), err := 1, busy := false }

/-- 41 R153, R154, R156, R157, R162: the schedule has `(Nr + 1) * Nb` words, the first `Nk` are the key, each later one follows from the
recurrence, with `RC(i div Nk)` (40 R127) in the top byte; `SubWord` substitutes each byte in its place (R156). -/
def Obligations.ScheduleWordsFollowTheRecurrence : Prop :=
  (∀ b0 b1 b2 b3 : Byte, subWord (wordOf b0 b1 b2 b3) = wordOf (sbox b0) (sbox b1) (sbox b2) (sbox b3)) ∧
  ∀ (key : List Byte) (nk nb : Nat), LegalWords nk → LegalWords nb → key.length = 4 * nk →
    (expandKey key nk nb).length = (max nb nk + 6 + 1) * nb ∧
    (∀ i < nk, (expandKey key nk nb).getD i 0 =
      wordOf (key.getD (4 * i) 0) (key.getD (4 * i + 1) 0) (key.getD (4 * i + 2) 0) (key.getD (4 * i + 3) 0)) ∧
    ∀ i, nk ≤ i → i < (max nb nk + 6 + 1) * nb →
      (expandKey key nk nb).getD i 0 =
        (if i % nk = 0 then
            subWord (rotWord ((expandKey key nk nb).getD (i - 1) 0)) ^^^ wordOf (roundConstant (i / nk)) 0x00 0x00 0x00
          else if 6 < nk ∧ i % nk = 4 then subWord ((expandKey key nk nb).getD (i - 1) 0)
          else (expandKey key nk nb).getD (i - 1) 0) ^^^ (expandKey key nk nb).getD (i - nk) 0

/-- 41 R162: for one key the schedule of the smaller block size is a prefix of that of the larger. -/
def Obligations.ShorterScheduleIsAPrefix : Prop :=
  ∀ (key : List Byte) (nk nb nb' : Nat), LegalWords nk → LegalWords nb → LegalWords nb' → nb ≤ nb' →
    expandKey key nk nb <+: expandKey key nk nb'

/-- 41 R155: `RotWord` moves each byte one place toward the most significant end. -/
def Obligations.RotWordRotatesTowardTheTopByte : Prop :=
  (∀ b0 b1 b2 b3 : Byte, rotWord (wordOf b0 b1 b2 b3) = wordOf b1 b2 b3 b0) ∧
  ∀ w : Word, rotWord w = (w <<< 8) ||| (w >>> 24)

/-! ### The field and the tables -/

/-- 40 R130: the laws of the field arithmetic. -/
def Obligations.FieldArithmeticLaws : Prop :=
  (∀ a b c : Byte, (a ^^^ b) ^^^ c = a ^^^ (b ^^^ c) ∧ a ^^^ b = b ^^^ a ∧ a ^^^ 0x00#8 = a ∧ a ^^^ a = 0x00#8) ∧
  (∀ a b c : Byte, gmul (gmul a b) c = gmul a (gmul b c)) ∧
  (∀ a b : Byte, gmul a b = gmul b a) ∧
  (∀ a : Byte, gmul a 0x01#8 = a) ∧
  (∀ a b c : Byte, gmul a (b ^^^ c) = gmul a b ^^^ gmul a c) ∧
  (∀ a b : Byte, gmul a b = 0x00#8 ↔ a = 0x00#8 ∨ b = 0x00#8) ∧
  (∀ k : Byte, k ≠ 0x00#8 → Function.Bijective fun a => gmul a k) ∧
  ∀ n : Fin 4,
    gmul ([0x02#8, 0x01#8, 0x01#8, 0x03#8].getD (n.val % 4) 0) 0x0E#8 ^^^
    gmul ([0x02#8, 0x01#8, 0x01#8, 0x03#8].getD ((n.val + 3) % 4) 0) 0x09#8 ^^^
    gmul ([0x02#8, 0x01#8, 0x01#8, 0x03#8].getD ((n.val + 2) % 4) 0) 0x0D#8 ^^^
    gmul ([0x02#8, 0x01#8, 0x01#8, 0x03#8].getD ((n.val + 1) % 4) 0) 0x0B#8 = if n.val = 0 then 0x01#8 else 0x00#8

/-- 40 R123, R124: `ginv` is the one inverse of a non-zero byte, and `SBOX` is the affine map of it, without a fixed point. -/
def Obligations.SboxIsTheAffineMapOfTheInverse : Prop :=
  (∀ a : Byte, a ≠ 0x00#8 → gmul a (ginv a) = 0x01#8 ∧ ∀ b : Byte, gmul a b = 0x01#8 → b = ginv a) ∧
  ginv 0x00#8 = 0x00#8 ∧
  ∀ x : Byte, sbox x = sboxAffine (ginv x) ∧ sbox x ≠ x

/-- 40 R125, R126: the inverse S-box undoes the S-box both ways, and each multiplication table holds its products. -/
def Obligations.TablesHoldInversesAndProducts : Prop :=
  (∀ x : Byte, invSbox (sbox x) = x ∧ sbox (invSbox x) = x) ∧
  ∀ a : Byte, mul2 a = gmul a 0x02#8 ∧ mul3 a = gmul a 0x03#8 ∧ mul9 a = gmul a 0x09#8 ∧ mul11 a = gmul a 0x0B#8 ∧
    mul13 a = gmul a 0x0D#8 ∧ mul14 a = gmul a 0x0E#8

/-! ### The round transformer -/

/-- 20 R62: loading gives `a[r][c] = B[4c + r]`, storing gives `B[4c + r] = a[r][c]`, and column `c` is the word `Wd(B, c)` with row
0 as its top byte. -/
def Obligations.BlocksLieInTheStateColumnByColumn : Prop :=
  (∀ (b : List Byte) (nb : Nat), b.length = 4 * nb →
    (loadState b nb).length = nb ∧ storeState (loadState b nb) = b ∧
    ∀ r < 4, ∀ c < nb, cell (loadState b nb) r c = b.getD (4 * c + r) 0 ∧
      cell (loadState b nb) r c = wordByte (wordAt b c) r) ∧
  ∀ a : List Column, (storeState a).length = 4 * a.length ∧ loadState (storeState a) a.length = a ∧
    ∀ r < 4, ∀ c < a.length, (storeState a).getD (4 * c + r) 0 = cell a r c

/-- 42 R172, R178 with the offsets of 40 R128: where each byte of a shifted row comes from. -/
def Obligations.RowsRotateByTheOffsetTable : Prop :=
  ∀ (nb r c : Nat) (a : List Column), LegalWords nb → a.length = nb → r < 4 → c < nb →
    let offset := if nb = 8 then [0, 1, 3, 4].getD r 0 else [0, 1, 2, 3].getD r 0
    cell (shiftRows nb a) r c = cell a r ((c + offset) % nb) ∧
    cell (invShiftRows nb a) r ((c + offset) % nb) = cell a r c

/-- 42 R173, R179, R184: `MixColumns` and `InvMixColumns` act on each column on its own; the column becomes its product with
`03 y^3 + 01 y^2 + 01 y + 02`, or with `0B y^3 + 0D y^2 + 09 y + 0E`, modulo `y^4 + 1`, row `r` the coefficient of `y^r`. -/
def Obligations.MixColumnsIsThePolynomialProduct : Prop :=
  ∀ a : List Column, (mixColumns a).length = a.length ∧ (invMixColumns a).length = a.length ∧
    ∀ (c i : Nat), c < a.length → i < 4 →
      cell (mixColumns a) i c =
        gmul ([0x02#8, 0x01#8, 0x01#8, 0x03#8].getD (i % 4) 0) (cell a 0 c) ^^^
        gmul ([0x02#8, 0x01#8, 0x01#8, 0x03#8].getD ((i + 3) % 4) 0) (cell a 1 c) ^^^
        gmul ([0x02#8, 0x01#8, 0x01#8, 0x03#8].getD ((i + 2) % 4) 0) (cell a 2 c) ^^^
        gmul ([0x02#8, 0x01#8, 0x01#8, 0x03#8].getD ((i + 1) % 4) 0) (cell a 3 c) ∧
      cell (invMixColumns a) i c =
        gmul ([0x0E#8, 0x09#8, 0x0D#8, 0x0B#8].getD (i % 4) 0) (cell a 0 c) ^^^
        gmul ([0x0E#8, 0x09#8, 0x0D#8, 0x0B#8].getD ((i + 3) % 4) 0) (cell a 1 c) ^^^
        gmul ([0x0E#8, 0x09#8, 0x0D#8, 0x0B#8].getD ((i + 2) % 4) 0) (cell a 2 c) ^^^
        gmul ([0x0E#8, 0x09#8, 0x0D#8, 0x0B#8].getD ((i + 1) % 4) 0) (cell a 3 c)

/-- 42 R171, R174, R177, R183, 41 R161: what the byte substitutions and the key addition compute in each cell; and each
transformation of a round keeps the shape of the state and is undone, on both sides, by its named inverse. -/
def Obligations.RoundTransformationsAreInvertible : Prop :=
  ∀ (c : Context) (a : List Column), c.Legal → a.length = c.nb.toNat →
    (∀ r < 4, ∀ col < c.nb.toNat,
      cell (subBytes a) r col = sbox (cell a r col) ∧ cell (invSubBytes a) r col = invSbox (cell a r col) ∧
      ∀ k ≤ c.nr.toNat,
        cell (addRoundKey c a k) r col = cell a r col ^^^ wordByte (c.rk.getD (k * c.nb.toNat + col) 0) r) ∧
    ((subBytes a).length = c.nb.toNat ∧ invSubBytes (subBytes a) = a ∧ subBytes (invSubBytes a) = a) ∧
    ((shiftRows c.nb.toNat a).length = c.nb.toNat ∧ invShiftRows c.nb.toNat (shiftRows c.nb.toNat a) = a ∧
      shiftRows c.nb.toNat (invShiftRows c.nb.toNat a) = a) ∧
    ((mixColumns a).length = c.nb.toNat ∧ invMixColumns (mixColumns a) = a ∧ mixColumns (invMixColumns a) = a) ∧
    ∀ k ≤ c.nr.toNat, (addRoundKey c a k).length = c.nb.toNat ∧ addRoundKey c (addRoundKey c a k) k = a

/-- 42 R185: SubBytes and ShiftRows commute, as do their inverses. -/
def Obligations.SubstitutionCommutesWithRowRotation : Prop :=
  ∀ (nb : Nat) (a : List Column), LegalWords nb → a.length = nb →
    shiftRows nb (subBytes a) = subBytes (shiftRows nb a) ∧
    invShiftRows nb (invSubBytes a) = invSubBytes (invShiftRows nb a)

/-- 42 R175, R176, R180, R181: each round is its composition of the four transformations, and the inverse rounds undo the
rounds. -/
def Obligations.RoundsAreTheirCompositions : Prop :=
  (∀ (c : Context) (a : List Column) (k : Nat),
    forwardRound c a k = addRoundKey c (mixColumns (shiftRows c.nb.toNat (subBytes a))) k ∧
    finalRound c a = addRoundKey c (shiftRows c.nb.toNat (subBytes a)) c.nr.toNat ∧
    inverseRound c a k = invSubBytes (invShiftRows c.nb.toNat (invMixColumns (addRoundKey c a k))) ∧
    inverseFinalRound c a = invSubBytes (invShiftRows c.nb.toNat (addRoundKey c a c.nr.toNat))) ∧
  ∀ (c : Context) (a : List Column), c.Legal → a.length = c.nb.toNat →
    (∀ k ≤ c.nr.toNat, inverseRound c (forwardRound c a k) k = a) ∧ inverseFinalRound c (finalRound c a) = a

/-! ### The block cipher, ENC and DEC -/

/-- 43 R200, R201: encryption adds round key 0, runs the rounds `1 .. NR-1` upwards and then the final round; decryption runs the
inverse of the final round, the inverse rounds `NR-1 .. 1` downwards, and adds round key 0. -/
def Obligations.BlockFunctionsRunTheRoundsInOrder : Prop :=
  ∀ (c : Context) (b : List Byte), c.Legal → b.length = 4 * c.nb.toNat →
    encryptBlock c b =
      storeState (finalRound c ((List.range' 1 (c.nr.toNat - 1)).foldl (fun a k => forwardRound c a k)
        (addRoundKey c (loadState b c.nb.toNat) 0))) ∧
    decryptBlock c b =
      storeState (addRoundKey c ((List.range' 1 (c.nr.toNat - 1)).reverse.foldl (fun a k => inverseRound c a k)
        (inverseFinalRound c (loadState b c.nb.toNat))) 0) ∧
    (encryptBlock c b).length = 4 * c.nb.toNat ∧ (decryptBlock c b).length = 4 * c.nb.toNat

/-- 43 R205: in every keyed context decryption undoes encryption and encryption undoes decryption, on every block of `BB` bytes. -/
def Obligations.DecryptionInvertsEncryption : Prop :=
  ∀ (c : Context) (p : List Byte), c.Legal → p.length = 4 * c.nb.toNat →
    (encryptBlock c p).length = 4 * c.nb.toNat ∧ (decryptBlock c p).length = 4 * c.nb.toNat ∧
    decryptBlock c (encryptBlock c p) = p ∧ encryptBlock c (decryptBlock c p) = p

/-- 43 R202 (completion, result, frame): `ENC` with a keyed context and both blocks inside `DBUF`. -/
def Obligations.EncEncryptsOneBlock : Prop :=
  ∀ s : State, s.Ready → s.src.toNat + 4 * s.ctx.nb.toNat ≤ 4096 → s.dst.toNat + 4 * s.ctx.nb.toNat ≤ 4096 →
    ∃ t, exec .enc s = .next t ∧ t.cmd = 0x20000000#32 ∧ t.err = 0 ∧ t.busy = false ∧
      memRead t.dbuf (dstBlock s 0) (blockBytes s.ctx) =
        encryptBlock s.ctx (memRead s.dbuf (srcBlock s 0) (blockBytes s.ctx)) ∧
      (∀ a, a < dstBlock s 0 ∨ dstBlock s 0 + blockBytes s.ctx ≤ a → memGet t.dbuf a = memGet s.dbuf a) ∧
      t.ctx = s.ctx ∧ t.cr0 = s.cr0 ∧ t.cr1 = s.cr1 ∧ OperandsKept s t

/-- 43 R203 (completion, result, frame): `DEC` with a keyed context and both blocks inside `DBUF`. -/
def Obligations.DecDecryptsOneBlock : Prop :=
  ∀ s : State, s.Ready → s.src.toNat + 4 * s.ctx.nb.toNat ≤ 4096 → s.dst.toNat + 4 * s.ctx.nb.toNat ≤ 4096 →
    ∃ t, exec .dec s = .next t ∧ t.cmd = 0x30000000#32 ∧ t.err = 0 ∧ t.busy = false ∧
      memRead t.dbuf (dstBlock s 0) (blockBytes s.ctx) =
        decryptBlock s.ctx (memRead s.dbuf (srcBlock s 0) (blockBytes s.ctx)) ∧
      (∀ a, a < dstBlock s 0 ∨ dstBlock s 0 + blockBytes s.ctx ≤ a → memGet t.dbuf a = memGet s.dbuf a) ∧
      t.ctx = s.ctx ∧ t.cr0 = s.cr0 ∧ t.cr1 = s.cr1 ∧ OperandsKept s t

/-- 43 R205 at the port: a block encrypted by `ENC` and decrypted by `DEC` to where it came from is the block that was there. -/
def Obligations.DecAfterEncRestoresTheBlock : Prop :=
  ∀ s : State, s.Ready → s.src.toNat + 4 * s.ctx.nb.toNat ≤ 4096 → s.dst.toNat + 4 * s.ctx.nb.toNat ≤ 4096 →
    ∃ t u, exec .enc s = .next t ∧ exec .dec { t with src := s.dst, dst := s.src } = .next u ∧ u.err = 0 ∧
      memRead u.dbuf s.src.toNat (4 * s.ctx.nb.toNat) = memRead s.dbuf s.src.toNat (4 * s.ctx.nb.toNat)

/-- 43 R206: the output block of `ENC` and of `DEC` depends only on the context and the input block. -/
def Obligations.BlockResultDependsOnContextAndInput : Prop :=
  ∀ (i : Instr) (s s' t t' : State), i = .enc ∨ i = .dec → exec i s = .next t → exec i s' = .next t' →
    t.err = 0 → t'.err = 0 → s.ctx = s'.ctx →
    memRead s.dbuf s.src.toNat (4 * s.ctx.nb.toNat) = memRead s'.dbuf s'.src.toNat (4 * s.ctx.nb.toNat) →
    memRead t.dbuf s.dst.toNat (4 * s.ctx.nb.toNat) = memRead t'.dbuf s'.dst.toNat (4 * s.ctx.nb.toNat)

/-! ### CBCE and CBCD -/

/-- 44 R218, R225, R226 (completion, result, frame): `CBCE` runs its `LEN / BB` blocks in ascending order; it writes only the
output blocks and bytes `0 .. BB-1` of the chosen register. -/
def Obligations.CbceRunsItsBlocks : Prop :=
  ∀ (s : State) (cr : ChainReg), s.Ready → s.len.toNat % (4 * s.ctx.nb.toNat) = 0 →
    s.src.toNat + s.len.toNat ≤ 4096 → s.dst.toNat + s.len.toNat ≤ 4096 →
    ∃ t, exec (.cbce cr) s = .next t ∧ t.cmd = encode (.cbce cr) ∧ t.err = 0 ∧ t.busy = false ∧
      t.dbuf = (runBlocks (cbceBlock cr) (blockCount s) s).dbuf ∧
      chainValue t cr = chainValue (runBlocks (cbceBlock cr) (blockCount s) s) cr ∧
      (∀ a, (∀ i < blockCount s, a < dstBlock s i ∨ dstBlock s i + blockBytes s.ctx ≤ a) →
        memGet t.dbuf a = memGet s.dbuf a) ∧
      (t.cr cr).toList.drop (blockBytes s.ctx) = (s.cr cr).toList.drop (blockBytes s.ctx) ∧
      (∀ cr', cr' ≠ cr → t.cr cr' = s.cr cr') ∧
      t.ctx = s.ctx ∧ OperandsKept s t

/-- 44 R220, R225, R226 (completion, result, frame): `CBCD`, as `CBCE`. -/
def Obligations.CbcdRunsItsBlocks : Prop :=
  ∀ (s : State) (cr : ChainReg), s.Ready → s.len.toNat % (4 * s.ctx.nb.toNat) = 0 →
    s.src.toNat + s.len.toNat ≤ 4096 → s.dst.toNat + s.len.toNat ≤ 4096 →
    ∃ t, exec (.cbcd cr) s = .next t ∧ t.cmd = encode (.cbcd cr) ∧ t.err = 0 ∧ t.busy = false ∧
      t.dbuf = (runBlocks (cbcdBlock cr) (blockCount s) s).dbuf ∧
      chainValue t cr = chainValue (runBlocks (cbcdBlock cr) (blockCount s) s) cr ∧
      (∀ a, (∀ i < blockCount s, a < dstBlock s i ∨ dstBlock s i + blockBytes s.ctx ≤ a) →
        memGet t.dbuf a = memGet s.dbuf a) ∧
      (t.cr cr).toList.drop (blockBytes s.ctx) = (s.cr cr).toList.drop (blockBytes s.ctx) ∧
      (∀ cr', cr' ≠ cr → t.cr cr' = s.cr cr') ∧
      t.ctx = s.ctx ∧ OperandsKept s t

/-- 44 R216, R218, 20 R73: where the buffers do not overlap harmfully, `CBCE` writes `CbcEncrypt` of the input it found and leaves
the new chaining value. -/
def Obligations.CbceComputesCbcEncryption : Prop :=
  ∀ (s : State) (cr : ChainReg), s.Ready → s.len.toNat % (4 * s.ctx.nb.toNat) = 0 →
    s.src.toNat + s.len.toNat ≤ 4096 → s.dst.toNat + s.len.toNat ≤ 4096 →
    HarmlessOverlap s s.len.toNat ∨ s.len.toNat ≤ 4 * s.ctx.nb.toNat →
    ∃ t, exec (.cbce cr) s = .next t ∧
      (memRead t.dbuf s.dst.toNat s.len.toNat, chainValue t cr) =
        cbcEncrypt s.ctx (s.len.toNat / (4 * s.ctx.nb.toNat)) (chainValue s cr) (memRead s.dbuf s.src.toNat s.len.toNat)

/-- 44 R217, R220, 20 R73: where the buffers do not overlap harmfully, `CBCD` writes `CbcDecrypt` of the input it found and leaves
the new chaining value. -/
def Obligations.CbcdComputesCbcDecryption : Prop :=
  ∀ (s : State) (cr : ChainReg), s.Ready → s.len.toNat % (4 * s.ctx.nb.toNat) = 0 →
    s.src.toNat + s.len.toNat ≤ 4096 → s.dst.toNat + s.len.toNat ≤ 4096 →
    HarmlessOverlap s s.len.toNat ∨ s.len.toNat ≤ 4 * s.ctx.nb.toNat →
    ∃ t, exec (.cbcd cr) s = .next t ∧
      (memRead t.dbuf s.dst.toNat s.len.toNat, chainValue t cr) =
        cbcDecrypt s.ctx (s.len.toNat / (4 * s.ctx.nb.toNat)) (chainValue s cr) (memRead s.dbuf s.src.toNat s.len.toNat)

/-- 44 R222: one chained command over `l1 + l2` bytes leaves the memory, the chaining registers and the context that two commands
leave, over the first `l1` bytes and then over the remaining `l2`, with only the operand registers rewritten between them. -/
def Obligations.ChainedCommandsStream : Prop :=
  ∀ (i : Instr) (s : State) (l1 l2 : Nat), (∃ cr, i = .cbce cr ∨ i = .cbcd cr) → s.Ready →
    l1 % (4 * s.ctx.nb.toNat) = 0 → l2 % (4 * s.ctx.nb.toNat) = 0 →
    s.src.toNat + (l1 + l2) ≤ 4096 → s.dst.toNat + (l1 + l2) ≤ 4096 →
    ∃ t t1 t2, exec i { s with len := BitVec.ofNat 32 (l1 + l2) } = .next t ∧
      exec i { s with len := BitVec.ofNat 32 l1 } = .next t1 ∧
      exec i { t1 with src := BitVec.ofNat 32 (s.src.toNat + l1), dst := BitVec.ofNat 32 (s.dst.toNat + l1),
                       len := BitVec.ofNat 32 l2 } = .next t2 ∧
      t.err = 0 ∧ t1.err = 0 ∧ t2.err = 0 ∧
      t2.dbuf = t.dbuf ∧ t2.cr0 = t.cr0 ∧ t2.cr1 = t.cr1 ∧ t2.ctx = t.ctx

/-- 44 R223: from equal initial registers, decrypting the encryption of a message gives the message, and the two registers end
equal. -/
def Obligations.CbcDecryptionInvertsCbcEncryption : Prop :=
  ∀ (c : Context) (m : Nat) (r x : List Byte), c.Legal → r.length = 4 * c.nb.toNat → x.length = m * (4 * c.nb.toNat) →
    cbcDecrypt c m r (cbcEncrypt c m r x).1 = (x, (cbcEncrypt c m r x).2)

/-- 44 R224: block `i` of a CBC decryption depends only on ciphertext blocks `i` and `i - 1`, or the initial register. -/
def Obligations.DecryptedBlockNeedsTwoCiphertextBlocks : Prop :=
  ∀ (c : Context) (m i : Nat) (r x : List Byte), c.Legal → r.length = 4 * c.nb.toNat → x.length = m * (4 * c.nb.toNat) →
    i < m →
    (((cbcDecrypt c m r x).1.drop (i * (4 * c.nb.toNat))).take (4 * c.nb.toNat)) =
      xorBytes (decryptBlock c ((x.drop (i * (4 * c.nb.toNat))).take (4 * c.nb.toNat)))
        (if i = 0 then r else (x.drop ((i - 1) * (4 * c.nb.toNat))).take (4 * c.nb.toNat))

/-- 44 R221: a chained command over no bytes succeeds and changes nothing but `CMD` and `ERR`; buffers may start at the end of
`DBUF`. The hidden registers are left out of the comparison (10 R35). -/
def Obligations.ZeroLengthChainedCommandChangesNothing : Prop :=
  ∀ (i : Instr) (s : State), (∃ cr, i = .cbce cr ∨ i = .cbcd cr) → s.Ready → s.len = 0 →
    s.src.toNat ≤ 4096 → s.dst.toNat ≤ 4096 →
    ∃ t, exec i s = .next t ∧ SameArch t { s with cmd := encode i, err := 0, busy := false }

/-! ### Errors -/

/-- 60 R287: a command reports the first error of the order IllegalCommand, InvalidParameter, NotKeyed, InvalidLength,
AddressRange that holds, and changes only `CMD` and `ERR` (R286). For a `SETKEY` size of 4096 or more, which no word can hold, the
word in `CMD` is the model's choice (log entry 10). -/
def Obligations.ErrorsAreReportedInPriorityOrder : Prop :=
  ∀ s : State,
    (∀ (d : Word) (why : IllegalWord), decode d = .illegal why →
      issue d s = .next { s with cmd := d, err := 5, busy := false }) ∧
    (∀ kbits bbits, ¬ (Config.LegalSize kbits ∧ Config.LegalSize bbits) →
      exec (.setkey kbits bbits) s = .next { s with cmd := encode (.setkey kbits bbits), err := 1, busy := false }) ∧
    (∀ i, DataCommand i → s.ctx.keyed = false → exec i s = .next { s with cmd := encode i, err := 2, busy := false }) ∧
    (∀ i, (∃ cr, i = .cbce cr ∨ i = .cbcd cr) → s.Ready → s.len.toNat % (4 * s.ctx.nb.toNat) ≠ 0 →
      exec i s = .next { s with cmd := encode i, err := 3, busy := false }) ∧
    (∀ i, i = .enc ∨ i = .dec → s.Ready →
      4096 < s.src.toNat + 4 * s.ctx.nb.toNat ∨ 4096 < s.dst.toNat + 4 * s.ctx.nb.toNat →
      exec i s = .next { s with cmd := encode i, err := 4, busy := false }) ∧
    (∀ i, (∃ cr, i = .cbce cr ∨ i = .cbcd cr) → s.Ready → s.len.toNat % (4 * s.ctx.nb.toNat) = 0 →
      4096 < s.src.toNat + s.len.toNat ∨ 4096 < s.dst.toNat + s.len.toNat →
      exec i s = .next { s with cmd := encode i, err := 4, busy := false })

/-- 60 R281 to R284, R288: a command ends with each error code exactly on that code's cause, and with no other code. -/
def Obligations.ErrorCodesHaveExactlyTheirCauses : Prop :=
  ∀ (i : Instr) (s t : State), exec i s = .next t →
    (t.err = 1 ↔ ∃ kbits bbits, i = .setkey kbits bbits ∧ ¬ (Config.LegalSize kbits ∧ Config.LegalSize bbits)) ∧
    (t.err = 2 ↔ DataCommand i ∧ s.ctx.keyed = false) ∧
    (t.err = 3 ↔ (∃ cr, i = .cbce cr ∨ i = .cbcd cr) ∧ s.ctx.keyed = true ∧ s.len.toNat % (4 * s.ctx.nb.toNat) ≠ 0) ∧
    (t.err = 4 ↔
      ((i = .enc ∨ i = .dec) ∧ s.ctx.keyed = true ∧
        (4096 < s.src.toNat + 4 * s.ctx.nb.toNat ∨ 4096 < s.dst.toNat + 4 * s.ctx.nb.toNat)) ∨
      ((∃ cr, i = .cbce cr ∨ i = .cbcd cr) ∧ s.ctx.keyed = true ∧ s.len.toNat % (4 * s.ctx.nb.toNat) = 0 ∧
        (4096 < s.src.toNat + s.len.toNat ∨ 4096 < s.dst.toNat + s.len.toNat))) ∧
    t.err.toNat ≤ 4

/-- 60 R286: a command that ends has its word in `CMD` and `BUSY` at 0, and either succeeds with `ERR` 0 or changes nothing but `CMD`
and `ERR`. For a `SETKEY` size of 4096 or more, which no word can hold, the word in `CMD` is the model's choice (log entry 10). -/
def Obligations.ErrorsArePrecise : Prop :=
  ∀ (i : Instr) (s t : State), exec i s = .next t →
    t.cmd = encode i ∧ t.busy = false ∧ (t.err = 0 ∨ t = { s with cmd := encode i, err := t.err, busy := false })

/-! ### What can change each piece of state -/

/-- 10 R22 to R24: a step changes the context only by a reset, which un-keys it, or by a successful `SETKEY`. -/
def Obligations.OnlySetkeyAndResetChangeTheContext : Prop :=
  ∀ s t : State, step s = .next t →
    t.ctx = s.ctx ∨
    (∃ draw rest, s.port = .reset draw :: rest ∧ t.ctx.keyed = false ∧ t.ctx.rklen = 0 ∧ t.ctx.rk = []) ∨
    (∃ d rest kbits bbits, s.port = .write 0x000 d :: rest ∧ decode d = .command (.setkey kbits bbits) ∧
      Config.LegalSize kbits ∧ Config.LegalSize bbits ∧ t.ctx.keyed = true ∧ t.err = 0)

/-- 10 R28, 44 R225: a step changes a chaining register only by a reset, by a host write to its window, or by a successful chained
command that names it. -/
def Obligations.OnlyNamedCommandsAndTheHostChangeAChainingRegister : Prop :=
  ∀ (s t : State) (cr : ChainReg), step s = .next t →
    t.cr cr = s.cr cr ∨
    (∃ draw rest, s.port = .reset draw :: rest) ∨
    (∃ wa d rest, s.port = .write wa d :: rest ∧
      match cr with
      | .cr0 => 0x010 ≤ wa ∧ wa ≤ 0x017
      | .cr1 => 0x018 ≤ wa ∧ wa ≤ 0x01F) ∨
    (∃ d rest, s.port = .write 0x000 d :: rest ∧
      (decode d = .command (.cbce cr) ∨ decode d = .command (.cbcd cr)) ∧ t.err = 0)

/-- 10 R34, 20 R64, R66: a step changes a byte of `DBUF` only by a reset, by a host write to its word, or by a successful data
command whose output range, inside `DBUF`, holds the byte. -/
def Obligations.OnlyOutputRangesAndTheHostChangeDbuf : Prop :=
  ∀ (s t : State) (a : Nat), step s = .next t →
    memGet t.dbuf a = memGet s.dbuf a ∨
    (∃ draw rest, s.port = .reset draw :: rest) ∨
    (∃ wa d rest, s.port = .write wa d :: rest ∧ 0x400 ≤ wa ∧ wa ≤ 0x7FF ∧
      4 * (wa - 0x400) ≤ a ∧ a < 4 * (wa - 0x400) + 4) ∨
    (∃ d rest i, s.port = .write 0x000 d :: rest ∧ decode d = .command i ∧ DataCommand i ∧ t.err = 0 ∧ a < 4096 ∧
      s.dst.toNat ≤ a ∧
      a < s.dst.toNat + (if i = .enc ∨ i = .dec then 4 * s.ctx.nb.toNat else s.len.toNat))

/-- 10 R27, R29: no command writes `KEYIN`, `SRC`, `DST` or `LEN`. -/
def Obligations.NoCommandWritesTheOperandRegisters : Prop :=
  ∀ (i : Instr) (s t : State), exec i s = .next t → OperandsKept s t

/-! ### The host port -/

/-- 20 R68, 45 R241: a read returns the value of the map and changes nothing in the engine. -/
def Obligations.AHostReadChangesNothingInTheEngine : Prop :=
  ∀ (s : State) (wa : Nat) (rest : List HostAccess), s.port = .read wa :: rest → s.busy = false →
    step s = .next { s with port := rest, rdata := some (hostRead wa s) }

/-- 20 R70, 70 R310: a stored word is read back at once, and no other word of the host's map is changed by the write. -/
def Obligations.AStoredWordIsReadBackAndNoOtherChanges : Prop :=
  ∀ (s : State) (wa : Nat) (d : Word) (rest : List HostAccess),
    s.port = .write wa d :: rest → s.busy = false → StoringIndex wa →
    ∃ t, step s = .next t ∧ hostRead wa t = d ∧ ∀ wa', wa' ≠ wa → hostRead wa' t = hostRead wa' s

/-- 10 R30: after a `CMD` write, legal or not, a read of `CMD` gives the word written. -/
def Obligations.CmdHoldsTheLastWordWritten : Prop :=
  ∀ (s t : State) (d : Word) (rest : List HostAccess),
    s.port = .write 0x000 d :: rest → step s = .next t → hostRead 0x000 t = d

/-- 45 R243: the packing of byte arrays into host words, for reads and for writes. -/
def Obligations.HostWordsPackBytesBigEndian : Prop :=
  (∀ (s : State) (j : Nat), j < 8 →
    hostRead (0x008 + j) s = wordAt s.keyin.toList j ∧
    hostRead (0x010 + j) s = wordAt s.cr0.toList j ∧
    hostRead (0x018 + j) s = wordAt s.cr1.toList j) ∧
  (∀ (s : State) (k : Nat), k < 1024 →
    hostRead (0x400 + k) s =
      wordOf (memGet s.dbuf (4 * k)) (memGet s.dbuf (4 * k + 1)) (memGet s.dbuf (4 * k + 2)) (memGet s.dbuf (4 * k + 3))) ∧
  (∀ (s : State) (d : Word) (j i : Nat), j < 8 → i < 4 →
    (storeWrite (0x008 + j) d s).keyin.toList.getD (4 * j + i) 0 = d.extractLsb' (24 - 8 * i) 8 ∧
    (storeWrite (0x010 + j) d s).cr0.toList.getD (4 * j + i) 0 = d.extractLsb' (24 - 8 * i) 8 ∧
    (storeWrite (0x018 + j) d s).cr1.toList.getD (4 * j + i) 0 = d.extractLsb' (24 - 8 * i) 8) ∧
  (∀ (s : State) (d : Word) (k i : Nat), k < 1024 → i < 4 →
    memGet (storeWrite (0x400 + k) d s).dbuf (4 * k + i) = d.extractLsb' (24 - 8 * i) 8)

/-- 45 R246: reserved and unmapped indexes read 0, a write to them or to a read-only index is ignored, and only a command, or a
reset, changes `ERR`. -/
def Obligations.ReservedAndReadOnlyIndexesIgnoreWrites : Prop :=
  (∀ (s : State) (wa : Nat), ReservedIndex wa → hostRead wa s = 0) ∧
  (∀ (s : State) (wa : Nat) (d : Word) (rest : List HostAccess), s.port = .write wa d :: rest → s.busy = false →
    ReservedIndex wa ∨ ReadOnlyIndex wa → step s = .next { s with port := rest }) ∧
  ∀ s t : State, step s = .next t → t.err ≠ s.err →
    (∃ d rest, s.port = .write 0x000 d :: rest) ∨ ∃ draw rest, s.port = .reset draw :: rest

/-- 10 R31, R32, 45 R241: the fields of `STATUS` and `CFG`. -/
def Obligations.StatusAndCfgShowTheirFields : Prop :=
  ∀ s : State,
    ((hostRead 0x001 s).getLsbD 0 = s.busy ∧ (hostRead 0x001 s).getLsbD 1 = s.ctx.keyed ∧
      (hostRead 0x001 s).extractLsb' 2 2 = 0 ∧ (hostRead 0x001 s).extractLsb' 4 4 = s.err ∧
      (hostRead 0x001 s).extractLsb' 8 24 = 0) ∧
    ((hostRead 0x005 s).extractLsb' 0 4 = s.ctx.nb ∧ (hostRead 0x005 s).extractLsb' 4 4 = s.ctx.nk ∧
      (hostRead 0x005 s).extractLsb' 8 4 = s.ctx.nr ∧ (hostRead 0x005 s).extractLsb' 12 4 = 0 ∧
      (hostRead 0x005 s).extractLsb' 16 7 = s.ctx.rklen ∧ (hostRead 0x005 s).extractLsb' 23 9 = 0)

/-- 45 R247: the schedule window reads `RK[i]` below `RKLEN` and 0 from there on, all 0 when unkeyed; it is read-only. -/
def Obligations.TheScheduleWindowEndsAtTheScheduleLength : Prop :=
  ∀ (s : State) (i : Nat), s.ctx.Ok → i < 120 →
    (hostRead (0x080 + i) s = if i < s.ctx.rk.length then s.ctx.rk.getD i 0 else 0) ∧
    (s.ctx.keyed = false → hostRead (0x080 + i) s = 0) ∧
    ∀ d, storeWrite (0x080 + i) d s = s

/-! ### The interface procedures -/

/-- 45 R249 a: the key-setup procedure returns 0 and leaves the engine keyed with the given key and sizes, or returns 1
(`InvalidParameter`), a size that fits no word included, and leaves the context as it was. -/
def Obligations.TheKeySetupProcedureKeysTheContext : Prop :=
  ∀ (s : State) (key : List Byte) (kbits bbits : Nat), s.busy = false →
    (Config.LegalSize kbits ∧ Config.LegalSize bbits → key.length = kbits / 8 →
      ∃ r, runKeySetup key kbits bbits s = .next r ∧ r.code = 0 ∧ r.state.ctx.keyed = true ∧
        r.state.ctx.nk.toNat = kbits / 32 ∧ r.state.ctx.nb.toNat = bbits / 32 ∧
        r.state.ctx.rk = expandKey key (kbits / 32) (bbits / 32)) ∧
    (¬ (Config.LegalSize kbits ∧ Config.LegalSize bbits) →
      ∃ r, runKeySetup key kbits bbits s = .next r ∧ r.code = 1 ∧ r.state.ctx = s.ctx ∧
        (4096 ≤ kbits ∨ 4096 ≤ bbits → r.state = s))

/-- 45 R249 b: on a keyed context the single-block procedure returns 0 and the encryption, or decryption, of its input block;
unkeyed it returns 2 (`NotKeyed`) and no output. -/
def Obligations.TheBlockProcedureReturnsTheBlock : Prop :=
  ∀ (s : State) (encrypt : Bool) (input : List Byte) (src dst : Nat), s.busy = false → src % 4 = 0 → dst % 4 = 0 →
    (s.Ready → input.length = 4 * s.ctx.nb.toNat →
      src + 4 * s.ctx.nb.toNat ≤ 4096 → dst + 4 * s.ctx.nb.toNat ≤ 4096 →
      ∃ r, runBlock encrypt input src dst s = .next r ∧ r.code = 0 ∧ r.state.ctx = s.ctx ∧
        r.output = (List.range s.ctx.nb.toNat).map
          (wordAt (if encrypt then encryptBlock s.ctx input else decryptBlock s.ctx input))) ∧
    (s.ctx.keyed = false → src + input.length ≤ 4096 →
      ∃ r, runBlock encrypt input src dst s = .next r ∧ r.code = 2 ∧ r.output = [] ∧ r.state.ctx = s.ctx)

/-- 45 R249 c: on a keyed context the chained procedure returns 0 and the CBC encryption, or decryption, of its input, from the
given initialisation vector or from the register as the last call left it, and leaves the new chaining value in the register;
with a length that is no multiple of the block size it returns 3 (`InvalidLength`) and no output. -/
def Obligations.TheChainedProcedureReturnsTheMessage : Prop :=
  ∀ (s : State) (encrypt : Bool) (cr : ChainReg) (iv : Option (List Byte)) (input : List Byte) (src dst : Nat),
    s.busy = false → s.Ready → (∀ v, iv = some v → v.length = 4 * s.ctx.nb.toNat) → src % 4 = 0 → dst % 4 = 0 →
    src + input.length ≤ 4096 →
    (input.length % (4 * s.ctx.nb.toNat) = 0 → dst + input.length ≤ 4096 →
      dst ≤ src ∨ src + input.length ≤ dst ∨ input.length ≤ 4 * s.ctx.nb.toNat →
      ∃ r, runChained encrypt cr iv input src dst s = .next r ∧ r.code = 0 ∧ r.state.ctx = s.ctx ∧
        (r.output, chainValue r.state cr) =
          let result := (if encrypt then cbcEncrypt else cbcDecrypt) s.ctx (input.length / (4 * s.ctx.nb.toNat))
            (iv.getD (chainValue s cr)) input
          ((List.range (input.length / 4)).map (wordAt result.1), result.2)) ∧
    (input.length % (4 * s.ctx.nb.toNat) ≠ 0 →
      ∃ r, runChained encrypt cr iv input src dst s = .next r ∧ r.code = 3 ∧ r.output = [] ∧ r.state.ctx = s.ctx)

/-! ### Reset and the invariants -/

/-- 10 R38, 70 R301: after a reset the control state is zero, the schedule empty and the machine idle; `KEYIN`, the chaining registers
and `DBUF` are unspecified, that is, between commands every content is what some reset leaves (the draw is the model's form of
that, log entry 7). -/
def Obligations.AResetLeavesTheSpecifiedValues : Prop :=
  (∀ (s : State) (draw : ResetDraw) (rest : List HostAccess), s.port = .reset draw :: rest →
    ∃ t, step s = .next t ∧ t.ctx.keyed = false ∧ t.ctx.nb = 0 ∧ t.ctx.nk = 0 ∧ t.ctx.nr = 0 ∧ t.ctx.rklen = 0 ∧
      t.ctx.rk = [] ∧ t.cmd = 0 ∧ t.err = 0 ∧ t.busy = false ∧ t.src = 0 ∧ t.dst = 0 ∧ t.len = 0 ∧
      t.work.fsm = .idle) ∧
  ∀ (s : State) (keyin cr0 cr1 : Vector Byte 32) (dbuf : List Byte) (rest : List HostAccess), s.work.fsm = .idle →
    dbuf.length = 4096 →
    ∃ draw t, step { s with port := .reset draw :: rest } = .next t ∧ t.keyin = keyin ∧ t.cr0 = cr0 ∧ t.cr1 = cr1 ∧
      memRead t.dbuf 0 4096 = dbuf

/-- 70 R301: a reset in the middle of a command abandons it: the context is unkeyed and the machine idle, and what the command
has written so far to `DBUF` and to a chaining register stays written: every byte it changed, and every byte of the output
blocks it has stored. -/
def Obligations.AResetDuringACommandKeepsWhatItWrote : Prop :=
  ∀ (s u : State) (d : Word) (n : Nat) (draw : ResetDraw) (rest : List HostAccess),
    s.ctx.Ok → s.work.fsm = .idle → s.busy = false →
    ticks n (startCommand d s) = .next u → u.work.fsm ≠ .idle →
    ∃ t, cycle { u with port := .reset draw :: rest } = .next t ∧
      t.ctx = Context.unkeyed ∧ t.cmd = 0 ∧ t.err = 0 ∧ t.busy = false ∧ t.work.fsm = .idle ∧
      (∀ a, memGet u.dbuf a ≠ memGet s.dbuf a → memGet t.dbuf a = memGet u.dbuf a) ∧
      (∀ a, s.dst.toNat ≤ a → a < s.dst.toNat + blocksStored u * blockBytes u.ctx →
        memGet t.dbuf a = memGet u.dbuf a) ∧
      ∀ (cr : ChainReg) (j : Nat), (u.cr cr).toList.getD j 0 ≠ (s.cr cr).toList.getD j 0 →
        (t.cr cr).toList.getD j 0 = (u.cr cr).toList.getD j 0

/-- The invariant `State.Inv` (10 R25, R31, R33 and the canonical form of memory) holds after reset. -/
def Obligations.ResetMeetsTheInvariant : Prop :=
  State.reset.Inv ∧ ∀ (draw : ResetDraw) (s : State), (applyReset draw s).Inv

/-- 10 R25: every step, whatever the host does, keeps the context invariant, the range of `ERR`, an idle engine and the canonical
form of memory. -/
def Obligations.EveryStepKeepsTheInvariant : Prop :=
  ∀ s t : State, s.Inv → step s = .next t → t.Inv

/-- 45 R240, R245: from every state of the invariant every access completes: no fault, no refusal. -/
def Obligations.EveryAccessCompletes : Prop :=
  ∀ s : State, s.Inv → ∃ t, step s = .next t

/-! ### The control state machine -/

/-- 46 R274, R273: started in `IDLE` in any architectural state (10 R25) by a `CMD` write, the control state machine is back in `IDLE`
after `pathLength` transitions with the architectural state that the command-level rule gives. -/
def Obligations.TheStateMachineRefinesTheCommands : Prop :=
  ∀ (s : State) (d : Word), s.ctx.Ok → s.work.fsm = .idle → s.busy = false →
    ∃ t u, issue d s = .next t ∧ ticks (pathLength d s) (startCommand d s) = .next u ∧ u.work.fsm = .idle ∧ SameArch u t

/-- 46 R261: at the state machine level `BUSY` is 0 in `IDLE` and 1 in every other state, and every transition, access and reset
keeps it so. -/
def Obligations.BusyMeansNotIdle : Prop :=
  ∀ s t : State, (s.busy = true ↔ s.work.fsm ≠ .idle) → cycle s = .next t → (t.busy = true ↔ t.work.fsm ≠ .idle)

/-- 10 R24, 46 R263, R264: at the state machine level no transition, access or reset leaves a keyed context with a partial
schedule. -/
def Obligations.TheScheduleIsNeverPartiallyValid : Prop :=
  ∀ s t : State, s.ScheduleWhole → cycle s = .next t → t.ScheduleWhole

/-- 20 R75, 93 U3: while the engine is busy every host access but a read of `STATUS` is refused; that read shows `BUSY` as 1 and
changes nothing. -/
def Obligations.OnlyStatusMayBeReadWhileBusy : Prop :=
  ∀ (s : State) (rest : List HostAccess), s.busy = true →
    (∀ wa, wa ≠ 0x001 → s.port = .read wa :: rest → cycle s = .refused .accessWhileBusy) ∧
    (∀ wa d, s.port = .write wa d :: rest → cycle s = .refused .accessWhileBusy) ∧
    (s.port = .read 0x001 :: rest →
      ∃ v : Word, cycle s = .next { s with port := rest, rdata := some v } ∧ v.getLsbD 0 = true)
end

