-- ==== Sys2Proof/Laws/Buffers.lean ====
section
/-! SUPPORT. The laws of the fixed-size buffers and of the packing of bytes into words. -/

namespace Sys2Proof.Machine

/-! ### Buffers -/

theorem bufTake_length {α : Type} {n : Nat} (v : Vector α n) {k : Nat} (h : k ≤ n) : (bufTake v k).length = k := by
  simp [bufTake, h]

theorem bufPut_toList {α : Type} {n : Nat} (v : Vector α n) {xs : List α} (h : xs.length ≤ n) :
    (bufPut v xs).toList = xs ++ v.toList.drop xs.length := by
  simp [bufPut, Vector.toList, List.take_of_length_le h]

/-- What was put into the first elements is what they hold. -/
theorem bufTake_bufPut {α : Type} {n : Nat} (v : Vector α n) {xs : List α} (h : xs.length ≤ n) :
    bufTake (bufPut v xs) xs.length = xs := by
  simp [bufTake, bufPut_toList v h]

/-- The elements after the ones put keep their values. -/
theorem bufPut_drop {α : Type} {n : Nat} (v : Vector α n) {xs : List α} (h : xs.length ≤ n) :
    (bufPut v xs).toList.drop xs.length = v.toList.drop xs.length := by
  simp [bufPut_toList v h]

/-! ### Words -/

/-- A word is the word of its four bytes. -/
theorem wordOf_wordByte (w : Word) : wordOf (wordByte w 0) (wordByte w 1) (wordByte w 2) (wordByte w 3) = w := by
  apply BitVec.eq_of_getLsbD_eq
  intro i hi
  simp only [wordOf, wordByte, BitVec.getLsbD_append, BitVec.getLsbD_extractLsb']
  by_cases h0 : i < 8
  · simp [h0]
  · by_cases h1 : i < 16
    · have : i - 8 < 8 := by omega
      have e : 8 + (i - 8) = i := by omega
      simp [h0, this, e]
    · by_cases h2 : i < 24
      · have a1 : ¬ i - 8 < 8 := by omega
        have a2 : i - 8 - 8 < 8 := by omega
        have e : 16 + (i - 8 - 8) = i := by omega
        simp [h0, a1, a2, e]
      · have a1 : ¬ i - 8 < 8 := by omega
        have a2 : ¬ i - 8 - 8 < 8 := by omega
        have a3 : i - 8 - 8 - 8 < 8 := by omega
        have e : 24 + (i - 8 - 8 - 8) = i := by omega
        simp [h0, a1, a2, a3, e]

theorem wordByte_wordOf_0 (b0 b1 b2 b3 : Byte) : wordByte (wordOf b0 b1 b2 b3) 0 = b0 := by
  apply BitVec.eq_of_getLsbD_eq
  intro i hi
  have h1 : ¬ 24 + i < 8 := by omega
  have h2 : ¬ 24 + i - 8 < 8 := by omega
  have h3 : ¬ 24 + i - 8 - 8 < 8 := by omega
  have e : 24 + i - 8 - 8 - 8 = i := by omega
  simp only [wordByte, wordOf, BitVec.getLsbD_extractLsb', BitVec.getLsbD_append]
  simp [hi, h1, h2, h3, e]

theorem wordByte_wordOf_1 (b0 b1 b2 b3 : Byte) : wordByte (wordOf b0 b1 b2 b3) 1 = b1 := by
  apply BitVec.eq_of_getLsbD_eq
  intro i hi
  have h1 : ¬ 16 + i < 8 := by omega
  have h2 : ¬ 16 + i - 8 < 8 := by omega
  have e : 16 + i - 8 - 8 = i := by omega
  simp only [wordByte, wordOf, BitVec.getLsbD_extractLsb', BitVec.getLsbD_append]
  simp [hi, h1, h2, e]

theorem wordByte_wordOf_2 (b0 b1 b2 b3 : Byte) : wordByte (wordOf b0 b1 b2 b3) 2 = b2 := by
  apply BitVec.eq_of_getLsbD_eq
  intro i hi
  have h1 : ¬ 8 + i < 8 := by omega
  have e : 8 + i - 8 = i := by omega
  simp only [wordByte, wordOf, BitVec.getLsbD_extractLsb', BitVec.getLsbD_append]
  simp [hi, h1, e]

theorem wordByte_wordOf_3 (b0 b1 b2 b3 : Byte) : wordByte (wordOf b0 b1 b2 b3) 3 = b3 := by
  apply BitVec.eq_of_getLsbD_eq
  intro i hi
  simp only [wordByte, wordOf, BitVec.getLsbD_extractLsb', BitVec.getLsbD_append]
  simp [hi]

@[simp] theorem wordBytes_length (w : Word) : (wordBytes w).length = 4 := rfl

/-! ### The sizes of a context of 10 R25 -/

/-- The schedule lengths of 00 R6 are at most 120 words. -/
theorem scheduleLength_le {nk nb : Nat} (hk : LegalWords nk) (hb : LegalWords nb) : scheduleLength nk nb ≤ 120 := by
  rcases hk with rfl | rfl | rfl <;> rcases hb with rfl | rfl | rfl <;> decide

/-- The block size of a legal context is 16, 24 or 32 bytes (00 R6). -/
theorem blockBytes_legal {c : Context} (h : c.Legal) : blockBytes c = 16 ∨ blockBytes c = 24 ∨ blockBytes c = 32 := by
  have h' := h.1
  unfold blockBytes
  omega

/-- Every round key of a legal context, `k = 0 .. NR`, has `NB` words (41 R161). -/
theorem roundKey_length {c : Context} (h : c.Legal) {k : Nat} (hk : k ≤ c.nr.toNat) :
    (roundKey c k).length = c.nb.toNat := by
  obtain ⟨h1, h2, h3, h4, h5⟩ := h
  have hmul : k * c.nb.toNat + c.nb.toNat ≤ c.rk.length := by
    rw [h5, h4, scheduleLength, ← h3, ← Nat.succ_mul]
    exact Nat.mul_le_mul_right _ (by omega)
  simp only [roundKey, List.length_take, List.length_drop]
  omega

end Sys2Proof.Machine
end

