-- ==== Sys2Proof/Laws/Memory.lean ====
section
/-! SUPPORT. The laws of `DBUF` as a canonical list of cells: read after write for EVERY list, canonical or not, and the canonical
form kept by every operation. -/

namespace Sys2Proof.Machine

/-! ### One byte -/

theorem memGet_filter_ne (m : List Host.Cell) {a a' : Nat} (h : a' ≠ a) :
    memGet (m.filter (fun c => decide (c.1 ≠ a))) a' = memGet m a' := by
  induction m with
  | nil => rfl
  | cons c m ih =>
    by_cases hc : c.1 = a
    · simp only [hc, ne_eq, not_true, decide_false, List.filter_cons, Bool.false_eq_true, if_false, memGet, if_neg h.symm]
      exact ih
    · simp only [ne_eq, hc, not_false_eq_true, decide_true, List.filter_cons, if_true, memGet]
      rw [← ih]

theorem memGet_filter_same (m : List Host.Cell) (a : Nat) :
    memGet (m.filter (fun c => decide (c.1 ≠ a))) a = Config.unlistedByte := by
  induction m with
  | nil => rfl
  | cons c m ih => by_cases hc : c.1 = a <;> simp_all [memGet]

theorem memGet_memInsert_same (a : Nat) (b : Byte) (m : List Host.Cell) (h : ∀ c ∈ m, c.1 ≠ a) :
    memGet (memInsert a b m) a = b := by
  induction m with
  | nil => simp [memInsert, memGet]
  | cons c m ih =>
    have hc : c.1 ≠ a := h c (by simp)
    by_cases hlt : a < c.1
    · simp [memInsert, hlt, memGet]
    · simpa [memInsert, hlt, memGet, hc] using ih (fun x hx => h x (by simp [hx]))

theorem memGet_memInsert_ne (a : Nat) (b : Byte) (m : List Host.Cell) {a' : Nat} (h : a' ≠ a) :
    memGet (memInsert a b m) a' = memGet m a' := by
  induction m with
  | nil => simp [memInsert, memGet, h.symm]
  | cons c m ih =>
    by_cases hlt : a < c.1
    · simp [memInsert, hlt, memGet, h.symm]
    · simp [memInsert, hlt, memGet, ih]

/-- A byte read after it is written is the byte written. -/
theorem memGet_memSet_same (m : List Host.Cell) (a : Nat) (b : Byte) : memGet (memSet m a b) a = b := by
  unfold memSet
  split
  · next h => rw [memGet_filter_same, h]
  · exact memGet_memInsert_same a b _ (by simp)

/-- A write leaves every other byte alone. -/
theorem memGet_memSet_ne (m : List Host.Cell) {a a' : Nat} (b : Byte) (h : a' ≠ a) :
    memGet (memSet m a b) a' = memGet m a' := by
  unfold memSet
  split
  · exact memGet_filter_ne m h
  · rw [memGet_memInsert_ne a b _ h, memGet_filter_ne m h]

/-! ### The canonical form -/

theorem memWf_cons (c : Host.Cell) (m : List Host.Cell) :
    Memory.wf (c :: m) = true ↔
      c.1 < Config.dbufBytes ∧ c.2 ≠ Config.unlistedByte ∧ (∀ c' ∈ m, c.1 < c'.1) ∧ Memory.wf m = true := by
  simp [Memory.wf, and_assoc]

theorem memWf_filter (p : Host.Cell → Bool) {m : List Host.Cell} (h : Memory.wf m = true) : Memory.wf (m.filter p) = true := by
  induction m with
  | nil => rfl
  | cons c m ih =>
    obtain ⟨h1, h2, h3, h4⟩ := (memWf_cons c m).1 h
    by_cases hp : p c
    · rw [List.filter_cons_of_pos hp, memWf_cons]
      exact ⟨h1, h2, fun c' hc' => h3 c' (List.mem_of_mem_filter hc'), ih h4⟩
    · rw [List.filter_cons_of_neg hp]
      exact ih h4

theorem mem_memInsert {a : Nat} {b : Byte} {m : List Host.Cell} {c : Host.Cell} (h : c ∈ memInsert a b m) :
    c = (a, b) ∨ c ∈ m := by
  induction m with
  | nil => simpa [memInsert] using h
  | cons x m ih =>
    by_cases hlt : a < x.1
    · simpa [memInsert, hlt] using h
    · simp only [memInsert, hlt, if_false, List.mem_cons] at h
      rcases h with h | h
      · simp [h]
      · rcases ih h with h | h <;> simp [h]

theorem memWf_memInsert {a : Nat} {b : Byte} {m : List Host.Cell} (h : Memory.wf m = true) (hne : ∀ c ∈ m, c.1 ≠ a)
    (ha : a < Config.dbufBytes) (hb : b ≠ Config.unlistedByte) : Memory.wf (memInsert a b m) = true := by
  induction m with
  | nil => simp [memInsert, Memory.wf, ha, hb]
  | cons x m ih =>
    obtain ⟨h1, h2, h3, h4⟩ := (memWf_cons x m).1 h
    have hx : x.1 ≠ a := hne x (by simp)
    by_cases hlt : a < x.1
    · rw [show memInsert a b (x :: m) = (a, b) :: x :: m by simp [memInsert, hlt], memWf_cons]
      refine ⟨ha, hb, ?_, h⟩
      intro c hc
      rcases List.mem_cons.1 hc with hc | hc
      · rw [hc]; exact hlt
      · exact lt_trans hlt (h3 c hc)
    · rw [show memInsert a b (x :: m) = x :: memInsert a b m by simp [memInsert, hlt], memWf_cons]
      refine ⟨h1, h2, ?_, ih h4 (fun c hc => hne c (by simp [hc]))⟩
      intro c hc
      rcases mem_memInsert hc with hc | hc
      · rw [hc]; exact lt_of_le_of_ne (not_lt.1 hlt) hx
      · exact h3 c hc

/-- A write inside `DBUF` keeps the canonical form. -/
theorem memWf_memSet {m : List Host.Cell} (h : Memory.wf m = true) {a : Nat} (b : Byte) (ha : a < Config.dbufBytes) :
    Memory.wf (memSet m a b) = true := by
  unfold memSet
  split
  · exact memWf_filter _ h
  · next hb => exact memWf_memInsert (memWf_filter _ h) (by simp) ha hb

/-- `MemWrite` inside `DBUF` keeps the canonical form. -/
theorem memWf_memWrite {m : List Host.Cell} (h : Memory.wf m = true) {a : Nat} (v : List Byte)
    (ha : a + v.length ≤ Config.dbufBytes) : Memory.wf (memWrite m a v) = true := by
  induction v generalizing m a with
  | nil => exact h
  | cons b v ih =>
    simp only [List.length_cons] at ha
    exact ih (memWf_memSet h b (by omega)) (by omega)

/-! ### Blocks -/

/-- A byte after `MemWrite`: the written one inside the written range, the old one outside. -/
theorem memGet_memWrite (m : List Host.Cell) (a : Nat) (v : List Byte) (x : Nat) :
    memGet (memWrite m a v) x = if a ≤ x ∧ x < a + v.length then v.getD (x - a) 0 else memGet m x := by
  induction v generalizing m a with
  | nil =>
    rw [if_neg (by simp only [List.length_nil]; omega)]
    rfl
  | cons b v ih =>
    rw [memWrite, ih]
    by_cases hx : x = a
    · subst hx
      simp [memGet_memSet_same]
    · rw [memGet_memSet_ne m b hx]
      by_cases hin : a + 1 ≤ x ∧ x < a + 1 + v.length
      · have h' : a ≤ x ∧ x < a + (b :: v).length := by simp only [List.length_cons]; omega
        have hs : x - a = x - (a + 1) + 1 := by omega
        rw [if_pos hin, if_pos h', hs, List.getD_cons_succ]
      · have h' : ¬ (a ≤ x ∧ x < a + (b :: v).length) := by simp only [List.length_cons]; omega
        rw [if_neg hin, if_neg h']

/-- `MemWrite` leaves every byte outside its range alone. -/
theorem memGet_memWrite_outside (m : List Host.Cell) (a : Nat) (v : List Byte) {x : Nat}
    (h : x < a ∨ a + v.length ≤ x) : memGet (memWrite m a v) x = memGet m x := by
  rw [memGet_memWrite, if_neg (by omega)]

@[simp] theorem memRead_length (m : List Host.Cell) (a n : Nat) : (memRead m a n).length = n := by simp [memRead]

theorem memRead_getD (m : List Host.Cell) (a n : Nat) {j : Nat} (h : j < n) : (memRead m a n).getD j 0 = memGet m (a + j) := by
  simp [memRead, List.getD_eq_getElem?_getD, h]

/-- Two memories that agree on a range give the same block. -/
theorem memRead_congr {m m' : List Host.Cell} {a a' n : Nat} (h : ∀ j < n, memGet m (a + j) = memGet m' (a' + j)) :
    memRead m a n = memRead m' a' n := by
  unfold memRead
  exact List.map_congr_left fun j hj => h j (List.mem_range.1 hj)

/-- A block read where it was just written is the block written. -/
theorem memRead_memWrite_same (m : List Host.Cell) (a : Nat) (v : List Byte) : memRead (memWrite m a v) a v.length = v := by
  apply List.ext_getElem?
  intro j
  by_cases hj : j < v.length
  · simp [memRead, hj, memGet_memWrite, List.getD_eq_getElem?_getD]
  · rw [List.getElem?_eq_none (by simp; omega), List.getElem?_eq_none (by omega)]

/-- A block read outside a written range is as before. -/
theorem memRead_memWrite_outside (m : List Host.Cell) (a : Nat) (v : List Byte) {x n : Nat}
    (h : x + n ≤ a ∨ a + v.length ≤ x) : memRead (memWrite m a v) x n = memRead m x n :=
  memRead_congr fun j hj => memGet_memWrite_outside m a v (by omega)

/-- Memory after reset is in canonical form. -/
theorem memWf_reset : Memory.wf State.reset.dbuf = true := rfl

end Sys2Proof.Machine
end

