-- ==== Sys2Proof/Laws/State.lean ====
section
/-! SUPPORT. What each update of the state does to each field: true by unfolding once, so that no later proof unfolds a record
update. -/

namespace Sys2Proof.Machine

/-! ### `State.setCmd` -/

@[simp] theorem State.setCmd_ctx (s : State) (w : Word) : (s.setCmd w).ctx = s.ctx := rfl
@[simp] theorem State.setCmd_keyin (s : State) (w : Word) : (s.setCmd w).keyin = s.keyin := rfl
@[simp] theorem State.setCmd_cr0 (s : State) (w : Word) : (s.setCmd w).cr0 = s.cr0 := rfl
@[simp] theorem State.setCmd_cr1 (s : State) (w : Word) : (s.setCmd w).cr1 = s.cr1 := rfl
@[simp] theorem State.setCmd_src (s : State) (w : Word) : (s.setCmd w).src = s.src := rfl
@[simp] theorem State.setCmd_dst (s : State) (w : Word) : (s.setCmd w).dst = s.dst := rfl
@[simp] theorem State.setCmd_len (s : State) (w : Word) : (s.setCmd w).len = s.len := rfl
@[simp] theorem State.setCmd_cmd (s : State) (w : Word) : (s.setCmd w).cmd = w := rfl
@[simp] theorem State.setCmd_err (s : State) (w : Word) : (s.setCmd w).err = s.err := rfl
@[simp] theorem State.setCmd_busy (s : State) (w : Word) : (s.setCmd w).busy = s.busy := rfl
@[simp] theorem State.setCmd_dbuf (s : State) (w : Word) : (s.setCmd w).dbuf = s.dbuf := rfl
@[simp] theorem State.setCmd_work (s : State) (w : Word) : (s.setCmd w).work = s.work := rfl
@[simp] theorem State.setCmd_port (s : State) (w : Word) : (s.setCmd w).port = s.port := rfl
@[simp] theorem State.setCmd_rdata (s : State) (w : Word) : (s.setCmd w).rdata = s.rdata := rfl

/-! ### `State.setDbuf` -/

@[simp] theorem State.setDbuf_ctx (s : State) (m : List Host.Cell) : (s.setDbuf m).ctx = s.ctx := rfl
@[simp] theorem State.setDbuf_keyin (s : State) (m : List Host.Cell) : (s.setDbuf m).keyin = s.keyin := rfl
@[simp] theorem State.setDbuf_cr0 (s : State) (m : List Host.Cell) : (s.setDbuf m).cr0 = s.cr0 := rfl
@[simp] theorem State.setDbuf_cr1 (s : State) (m : List Host.Cell) : (s.setDbuf m).cr1 = s.cr1 := rfl
@[simp] theorem State.setDbuf_src (s : State) (m : List Host.Cell) : (s.setDbuf m).src = s.src := rfl
@[simp] theorem State.setDbuf_dst (s : State) (m : List Host.Cell) : (s.setDbuf m).dst = s.dst := rfl
@[simp] theorem State.setDbuf_len (s : State) (m : List Host.Cell) : (s.setDbuf m).len = s.len := rfl
@[simp] theorem State.setDbuf_cmd (s : State) (m : List Host.Cell) : (s.setDbuf m).cmd = s.cmd := rfl
@[simp] theorem State.setDbuf_err (s : State) (m : List Host.Cell) : (s.setDbuf m).err = s.err := rfl
@[simp] theorem State.setDbuf_busy (s : State) (m : List Host.Cell) : (s.setDbuf m).busy = s.busy := rfl
@[simp] theorem State.setDbuf_dbuf (s : State) (m : List Host.Cell) : (s.setDbuf m).dbuf = m := rfl
@[simp] theorem State.setDbuf_work (s : State) (m : List Host.Cell) : (s.setDbuf m).work = s.work := rfl
@[simp] theorem State.setDbuf_port (s : State) (m : List Host.Cell) : (s.setDbuf m).port = s.port := rfl
@[simp] theorem State.setDbuf_rdata (s : State) (m : List Host.Cell) : (s.setDbuf m).rdata = s.rdata := rfl

/-! ### `State.setCtx` -/

@[simp] theorem State.setCtx_ctx (s : State) (c : Context) : (s.setCtx c).ctx = c := rfl
@[simp] theorem State.setCtx_keyin (s : State) (c : Context) : (s.setCtx c).keyin = s.keyin := rfl
@[simp] theorem State.setCtx_cr0 (s : State) (c : Context) : (s.setCtx c).cr0 = s.cr0 := rfl
@[simp] theorem State.setCtx_cr1 (s : State) (c : Context) : (s.setCtx c).cr1 = s.cr1 := rfl
@[simp] theorem State.setCtx_src (s : State) (c : Context) : (s.setCtx c).src = s.src := rfl
@[simp] theorem State.setCtx_dst (s : State) (c : Context) : (s.setCtx c).dst = s.dst := rfl
@[simp] theorem State.setCtx_len (s : State) (c : Context) : (s.setCtx c).len = s.len := rfl
@[simp] theorem State.setCtx_cmd (s : State) (c : Context) : (s.setCtx c).cmd = s.cmd := rfl
@[simp] theorem State.setCtx_err (s : State) (c : Context) : (s.setCtx c).err = s.err := rfl
@[simp] theorem State.setCtx_busy (s : State) (c : Context) : (s.setCtx c).busy = s.busy := rfl
@[simp] theorem State.setCtx_dbuf (s : State) (c : Context) : (s.setCtx c).dbuf = s.dbuf := rfl
@[simp] theorem State.setCtx_work (s : State) (c : Context) : (s.setCtx c).work = s.work := rfl
@[simp] theorem State.setCtx_port (s : State) (c : Context) : (s.setCtx c).port = s.port := rfl
@[simp] theorem State.setCtx_rdata (s : State) (c : Context) : (s.setCtx c).rdata = s.rdata := rfl

/-! ### `State.setWork` -/

@[simp] theorem State.setWork_ctx (s : State) (w : Work) : (s.setWork w).ctx = s.ctx := rfl
@[simp] theorem State.setWork_keyin (s : State) (w : Work) : (s.setWork w).keyin = s.keyin := rfl
@[simp] theorem State.setWork_cr0 (s : State) (w : Work) : (s.setWork w).cr0 = s.cr0 := rfl
@[simp] theorem State.setWork_cr1 (s : State) (w : Work) : (s.setWork w).cr1 = s.cr1 := rfl
@[simp] theorem State.setWork_src (s : State) (w : Work) : (s.setWork w).src = s.src := rfl
@[simp] theorem State.setWork_dst (s : State) (w : Work) : (s.setWork w).dst = s.dst := rfl
@[simp] theorem State.setWork_len (s : State) (w : Work) : (s.setWork w).len = s.len := rfl
@[simp] theorem State.setWork_cmd (s : State) (w : Work) : (s.setWork w).cmd = s.cmd := rfl
@[simp] theorem State.setWork_err (s : State) (w : Work) : (s.setWork w).err = s.err := rfl
@[simp] theorem State.setWork_busy (s : State) (w : Work) : (s.setWork w).busy = s.busy := rfl
@[simp] theorem State.setWork_dbuf (s : State) (w : Work) : (s.setWork w).dbuf = s.dbuf := rfl
@[simp] theorem State.setWork_work (s : State) (w : Work) : (s.setWork w).work = w := rfl
@[simp] theorem State.setWork_port (s : State) (w : Work) : (s.setWork w).port = s.port := rfl
@[simp] theorem State.setWork_rdata (s : State) (w : Work) : (s.setWork w).rdata = s.rdata := rfl

/-! ### `State.finish` -/

@[simp] theorem State.finish_ctx (s : State) (e : ErrorCode) : (s.finish e).ctx = s.ctx := rfl
@[simp] theorem State.finish_keyin (s : State) (e : ErrorCode) : (s.finish e).keyin = s.keyin := rfl
@[simp] theorem State.finish_cr0 (s : State) (e : ErrorCode) : (s.finish e).cr0 = s.cr0 := rfl
@[simp] theorem State.finish_cr1 (s : State) (e : ErrorCode) : (s.finish e).cr1 = s.cr1 := rfl
@[simp] theorem State.finish_src (s : State) (e : ErrorCode) : (s.finish e).src = s.src := rfl
@[simp] theorem State.finish_dst (s : State) (e : ErrorCode) : (s.finish e).dst = s.dst := rfl
@[simp] theorem State.finish_len (s : State) (e : ErrorCode) : (s.finish e).len = s.len := rfl
@[simp] theorem State.finish_cmd (s : State) (e : ErrorCode) : (s.finish e).cmd = s.cmd := rfl
@[simp] theorem State.finish_err (s : State) (e : ErrorCode) : (s.finish e).err = errCode e := rfl
@[simp] theorem State.finish_busy (s : State) (e : ErrorCode) : (s.finish e).busy = false := rfl
@[simp] theorem State.finish_dbuf (s : State) (e : ErrorCode) : (s.finish e).dbuf = s.dbuf := rfl
@[simp] theorem State.finish_work (s : State) (e : ErrorCode) : (s.finish e).work = s.work := rfl
@[simp] theorem State.finish_port (s : State) (e : ErrorCode) : (s.finish e).port = s.port := rfl
@[simp] theorem State.finish_rdata (s : State) (e : ErrorCode) : (s.finish e).rdata = s.rdata := rfl

/-! ### `State.setErr` -/

@[simp] theorem State.setErr_ctx (s : State) (e : ErrorCode) : (s.setErr e).ctx = s.ctx := rfl
@[simp] theorem State.setErr_keyin (s : State) (e : ErrorCode) : (s.setErr e).keyin = s.keyin := rfl
@[simp] theorem State.setErr_cr0 (s : State) (e : ErrorCode) : (s.setErr e).cr0 = s.cr0 := rfl
@[simp] theorem State.setErr_cr1 (s : State) (e : ErrorCode) : (s.setErr e).cr1 = s.cr1 := rfl
@[simp] theorem State.setErr_src (s : State) (e : ErrorCode) : (s.setErr e).src = s.src := rfl
@[simp] theorem State.setErr_dst (s : State) (e : ErrorCode) : (s.setErr e).dst = s.dst := rfl
@[simp] theorem State.setErr_len (s : State) (e : ErrorCode) : (s.setErr e).len = s.len := rfl
@[simp] theorem State.setErr_cmd (s : State) (e : ErrorCode) : (s.setErr e).cmd = s.cmd := rfl
@[simp] theorem State.setErr_err (s : State) (e : ErrorCode) : (s.setErr e).err = errCode e := rfl
@[simp] theorem State.setErr_busy (s : State) (e : ErrorCode) : (s.setErr e).busy = s.busy := rfl
@[simp] theorem State.setErr_dbuf (s : State) (e : ErrorCode) : (s.setErr e).dbuf = s.dbuf := rfl
@[simp] theorem State.setErr_work (s : State) (e : ErrorCode) : (s.setErr e).work = s.work := rfl
@[simp] theorem State.setErr_port (s : State) (e : ErrorCode) : (s.setErr e).port = s.port := rfl
@[simp] theorem State.setErr_rdata (s : State) (e : ErrorCode) : (s.setErr e).rdata = s.rdata := rfl

/-! ### `State.goto` -/

@[simp] theorem State.goto_ctx (s : State) (q : FsmState) : (s.goto q).ctx = s.ctx := rfl
@[simp] theorem State.goto_keyin (s : State) (q : FsmState) : (s.goto q).keyin = s.keyin := rfl
@[simp] theorem State.goto_cr0 (s : State) (q : FsmState) : (s.goto q).cr0 = s.cr0 := rfl
@[simp] theorem State.goto_cr1 (s : State) (q : FsmState) : (s.goto q).cr1 = s.cr1 := rfl
@[simp] theorem State.goto_src (s : State) (q : FsmState) : (s.goto q).src = s.src := rfl
@[simp] theorem State.goto_dst (s : State) (q : FsmState) : (s.goto q).dst = s.dst := rfl
@[simp] theorem State.goto_len (s : State) (q : FsmState) : (s.goto q).len = s.len := rfl
@[simp] theorem State.goto_cmd (s : State) (q : FsmState) : (s.goto q).cmd = s.cmd := rfl
@[simp] theorem State.goto_err (s : State) (q : FsmState) : (s.goto q).err = s.err := rfl
@[simp] theorem State.goto_busy (s : State) (q : FsmState) : (s.goto q).busy = s.busy := rfl
@[simp] theorem State.goto_dbuf (s : State) (q : FsmState) : (s.goto q).dbuf = s.dbuf := rfl
@[simp] theorem State.goto_work (s : State) (q : FsmState) : (s.goto q).work = { s.work with fsm := q } := rfl
@[simp] theorem State.goto_port (s : State) (q : FsmState) : (s.goto q).port = s.port := rfl
@[simp] theorem State.goto_rdata (s : State) (q : FsmState) : (s.goto q).rdata = s.rdata := rfl

/-! ### `State.setCr` -/

@[simp] theorem State.setCr_ctx (s : State) (n : ChainReg) (v : Vector Byte 32) : (s.setCr n v).ctx = s.ctx := by
  cases n <;> rfl
@[simp] theorem State.setCr_keyin (s : State) (n : ChainReg) (v : Vector Byte 32) : (s.setCr n v).keyin = s.keyin := by
  cases n <;> rfl
@[simp] theorem State.setCr_src (s : State) (n : ChainReg) (v : Vector Byte 32) : (s.setCr n v).src = s.src := by
  cases n <;> rfl
@[simp] theorem State.setCr_dst (s : State) (n : ChainReg) (v : Vector Byte 32) : (s.setCr n v).dst = s.dst := by
  cases n <;> rfl
@[simp] theorem State.setCr_len (s : State) (n : ChainReg) (v : Vector Byte 32) : (s.setCr n v).len = s.len := by
  cases n <;> rfl
@[simp] theorem State.setCr_cmd (s : State) (n : ChainReg) (v : Vector Byte 32) : (s.setCr n v).cmd = s.cmd := by
  cases n <;> rfl
@[simp] theorem State.setCr_err (s : State) (n : ChainReg) (v : Vector Byte 32) : (s.setCr n v).err = s.err := by
  cases n <;> rfl
@[simp] theorem State.setCr_busy (s : State) (n : ChainReg) (v : Vector Byte 32) : (s.setCr n v).busy = s.busy := by
  cases n <;> rfl
@[simp] theorem State.setCr_dbuf (s : State) (n : ChainReg) (v : Vector Byte 32) : (s.setCr n v).dbuf = s.dbuf := by
  cases n <;> rfl
@[simp] theorem State.setCr_work (s : State) (n : ChainReg) (v : Vector Byte 32) : (s.setCr n v).work = s.work := by
  cases n <;> rfl
@[simp] theorem State.setCr_port (s : State) (n : ChainReg) (v : Vector Byte 32) : (s.setCr n v).port = s.port := by
  cases n <;> rfl
@[simp] theorem State.setCr_rdata (s : State) (n : ChainReg) (v : Vector Byte 32) : (s.setCr n v).rdata = s.rdata := by
  cases n <;> rfl

@[simp] theorem State.setCr_cr_same (s : State) (n : ChainReg) (v : Vector Byte 32) : (s.setCr n v).cr n = v := by
  cases n <;> rfl

theorem State.setCr_cr_other (s : State) {n n' : ChainReg} (h : n' ≠ n) (v : Vector Byte 32) :
    (s.setCr n v).cr n' = s.cr n' := by
  cases n <;> cases n' <;> first | rfl | exact absurd rfl h

/-! ### `acceptCommand` -/

@[simp] theorem acceptCommand_ctx (d : Word) (s : State) : (acceptCommand d s).ctx = s.ctx := rfl
@[simp] theorem acceptCommand_keyin (d : Word) (s : State) : (acceptCommand d s).keyin = s.keyin := rfl
@[simp] theorem acceptCommand_cr0 (d : Word) (s : State) : (acceptCommand d s).cr0 = s.cr0 := rfl
@[simp] theorem acceptCommand_cr1 (d : Word) (s : State) : (acceptCommand d s).cr1 = s.cr1 := rfl
@[simp] theorem acceptCommand_src (d : Word) (s : State) : (acceptCommand d s).src = s.src := rfl
@[simp] theorem acceptCommand_dst (d : Word) (s : State) : (acceptCommand d s).dst = s.dst := rfl
@[simp] theorem acceptCommand_len (d : Word) (s : State) : (acceptCommand d s).len = s.len := rfl
@[simp] theorem acceptCommand_cmd (d : Word) (s : State) : (acceptCommand d s).cmd = d := rfl
@[simp] theorem acceptCommand_err (d : Word) (s : State) : (acceptCommand d s).err = s.err := rfl
@[simp] theorem acceptCommand_busy (d : Word) (s : State) : (acceptCommand d s).busy = true := rfl
@[simp] theorem acceptCommand_dbuf (d : Word) (s : State) : (acceptCommand d s).dbuf = s.dbuf := rfl
@[simp] theorem acceptCommand_work (d : Word) (s : State) : (acceptCommand d s).work = s.work := rfl
@[simp] theorem acceptCommand_port (d : Word) (s : State) : (acceptCommand d s).port = s.port := rfl
@[simp] theorem acceptCommand_rdata (d : Word) (s : State) : (acceptCommand d s).rdata = s.rdata := rfl

/-! ### The chaining register seen through an update of another field -/

@[simp] theorem State.setCmd_cr (s : State) (w : Word) (n : ChainReg) : (s.setCmd w).cr n = s.cr n := by cases n <;> rfl
@[simp] theorem State.setDbuf_cr (s : State) (m : List Host.Cell) (n : ChainReg) : (s.setDbuf m).cr n = s.cr n := by cases n <;> rfl
@[simp] theorem State.setCtx_cr (s : State) (c : Context) (n : ChainReg) : (s.setCtx c).cr n = s.cr n := by cases n <;> rfl
@[simp] theorem State.setWork_cr (s : State) (w : Work) (n : ChainReg) : (s.setWork w).cr n = s.cr n := by cases n <;> rfl
@[simp] theorem State.finish_cr (s : State) (e : ErrorCode) (n : ChainReg) : (s.finish e).cr n = s.cr n := by cases n <;> rfl
@[simp] theorem State.setErr_cr (s : State) (e : ErrorCode) (n : ChainReg) : (s.setErr e).cr n = s.cr n := by cases n <;> rfl
@[simp] theorem State.goto_cr (s : State) (q : FsmState) (n : ChainReg) : (s.goto q).cr n = s.cr n := by cases n <;> rfl

end Sys2Proof.Machine
end

