-- ==== Sys2Proof/Laws/Commands.lean ====
section
/-! SUPPORT. What each shared operation of the commands can do, said once: the inversion lemmas of the checks, the frames of the
block steps, the lengths of the block functions, the cases of a step. -/

namespace Sys2Proof.Machine

/-! ### The ends of a command -/

@[simp] theorem raise_eq (e : ErrorCode) (s : State) : raise e s = .next (s.finish e) := rfl
@[simp] theorem succeed_eq (s : State) : succeed s = .next (s.finish .ok) := rfl

/-! ### SETKEY -/

/-- `SETKEY` with legal sizes replaces the context (41 R158). -/
theorem execSetkey_legal {kbits bbits : Nat} (hk : Config.LegalSize kbits) (hb : Config.LegalSize bbits) (s : State) :
    execSetkey kbits bbits s =
      .next (((s.setCmd (encode (.setkey kbits bbits))).setCtx
        (keyedContext (keyBytes s (wordsOfBits kbits)) (wordsOfBits kbits) (wordsOfBits bbits))).finish .ok) := by
  simp only [execSetkey, if_pos (And.intro hk hb), succeed_eq]
  rfl

/-- `SETKEY` with an illegal size writes `CMD` and `ERR` only (41 R151). -/
theorem execSetkey_illegal {kbits bbits : Nat} (h : ¬ (Config.LegalSize kbits ∧ Config.LegalSize bbits)) (s : State) :
    execSetkey kbits bbits s = .next ((s.setCmd (encode (.setkey kbits bbits))).finish .invalidParameter) := by
  simp only [execSetkey, if_neg h, raise_eq]

theorem legalWords_of_legalSize {bits : Nat} (h : Config.LegalSize bits) : LegalWords (wordsOfBits bits) := by
  rcases h with rfl | rfl | rfl <;> decide

theorem expandFrom_length (nk n i : Nat) (rc : Byte) (w : List Word) : (expandFrom nk n i rc w).length = w.length + n := by
  induction n generalizing i rc w with
  | zero => rfl
  | succ n ih => rw [expandFrom, ih]; simp only [List.length_append, List.length_singleton]; omega

/-- The expansion of a legal pair of sizes has `(Nr + 1) * Nb` words (41 R152). -/
theorem expandKey_length (key : List Byte) {nk nb : Nat} (hk : LegalWords nk) (hb : LegalWords nb) :
    (expandKey key nk nb).length = scheduleLength nk nb := by
  rw [expandKey, expandFrom_length]
  rcases hk with rfl | rfl | rfl <;> rcases hb with rfl | rfl | rfl <;> simp [keyWords, scheduleLength, roundCount]

theorem keyedContext_nb (key : List Byte) (nk : Nat) {nb : Nat} (hb : LegalWords nb) : (keyedContext key nk nb).nb.toNat = nb := by
  simp only [keyedContext, BitVec.toNat_ofNat]
  omega

theorem keyedContext_nk (key : List Byte) {nk : Nat} (nb : Nat) (hk : LegalWords nk) : (keyedContext key nk nb).nk.toNat = nk := by
  simp only [keyedContext, BitVec.toNat_ofNat]
  omega

theorem keyedContext_nr (key : List Byte) {nk nb : Nat} (hk : LegalWords nk) (hb : LegalWords nb) :
    (keyedContext key nk nb).nr.toNat = roundCount nk nb := by
  simp only [keyedContext, BitVec.toNat_ofNat, roundCount]
  omega

theorem keyedContext_rklen (key : List Byte) {nk nb : Nat} (hk : LegalWords nk) (hb : LegalWords nb) :
    (keyedContext key nk nb).rklen.toNat = scheduleLength nk nb := by
  have := scheduleLength_le hk hb
  simp only [keyedContext, BitVec.toNat_ofNat]
  omega

/-- The context that a successful `SETKEY` leaves has the sizes 10 R25 asks for. -/
theorem keyedContext_legal (key : List Byte) {nk nb : Nat} (hk : LegalWords nk) (hb : LegalWords nb) :
    (keyedContext key nk nb).Legal := by
  rw [Context.Legal, keyedContext_nb key nk hb, keyedContext_nk key nb hk, keyedContext_nr key hk hb,
    keyedContext_rklen key hk hb]
  exact ⟨hb, hk, rfl, rfl, expandKey_length key hk hb⟩

/-! ### The checks of the data commands -/

/-- Everything `ENC` and `DEC` can do after storing the command word. -/
theorem blockCommand_cases {f : Context → List Byte → List Byte} {s t : State} (h : blockCommand f s = .next t) :
    (s.ctx.keyed = false ∧ t = s.finish .notKeyed) ∨
      (s.Ready ∧ OutOfRange s (blockBytes s.ctx) ∧ t = s.finish .addressRange) ∨
      (s.Ready ∧ ¬ OutOfRange s (blockBytes s.ctx) ∧ t = (transformBlock f s).finish .ok) := by
  unfold blockCommand at h
  by_cases hk : s.ctx.keyed = false
  · rw [if_pos hk, raise_eq] at h
    exact .inl ⟨hk, (Host.Outcome.next.inj h).symm⟩
  · have hkt : s.ctx.keyed = true := by simpa using hk
    rw [if_neg hk] at h
    by_cases hl : s.ctx.Legal
    · rw [if_neg (not_not.2 hl)] at h
      by_cases hr : OutOfRange s (blockBytes s.ctx)
      · rw [if_pos hr, raise_eq] at h
        exact .inr (.inl ⟨⟨hkt, hl⟩, hr, (Host.Outcome.next.inj h).symm⟩)
      · rw [if_neg hr, succeed_eq] at h
        exact .inr (.inr ⟨⟨hkt, hl⟩, hr, (Host.Outcome.next.inj h).symm⟩)
    · rw [if_pos hl] at h
      cases h

theorem blockCommand_notKeyed (f : Context → List Byte → List Byte) {s : State} (h : s.ctx.keyed = false) :
    blockCommand f s = .next (s.finish .notKeyed) := by
  simp [blockCommand, h]

theorem blockCommand_outOfRange (f : Context → List Byte → List Byte) {s : State} (h : s.Ready)
    (hr : OutOfRange s (blockBytes s.ctx)) : blockCommand f s = .next (s.finish .addressRange) := by
  rw [blockCommand, if_neg (by simp [h.1]), if_neg (not_not.2 h.2), if_pos hr, raise_eq]

theorem blockCommand_runs (f : Context → List Byte → List Byte) {s : State} (h : s.Ready)
    (hr : ¬ OutOfRange s (blockBytes s.ctx)) : blockCommand f s = .next ((transformBlock f s).finish .ok) := by
  rw [blockCommand, if_neg (by simp [h.1]), if_neg (not_not.2 h.2), if_neg hr, succeed_eq]

/-- Everything `CBCE` and `CBCD` can do after storing the command word. -/
theorem chainedCommand_cases {f : Nat → State → State} {s t : State} (h : chainedCommand f s = .next t) :
    (s.ctx.keyed = false ∧ t = s.finish .notKeyed) ∨
      (s.Ready ∧ BadLength s ∧ t = s.finish .invalidLength) ∨
      (s.Ready ∧ ¬ BadLength s ∧ OutOfRange s s.len.toNat ∧ t = s.finish .addressRange) ∨
      (s.Ready ∧ ¬ BadLength s ∧ ¬ OutOfRange s s.len.toNat ∧ t = (runBlocks f (blockCount s) s).finish .ok) := by
  unfold chainedCommand at h
  by_cases hk : s.ctx.keyed = false
  · rw [if_pos hk, raise_eq] at h
    exact .inl ⟨hk, (Host.Outcome.next.inj h).symm⟩
  · have hkt : s.ctx.keyed = true := by simpa using hk
    rw [if_neg hk] at h
    by_cases hl : s.ctx.Legal
    · rw [if_neg (not_not.2 hl)] at h
      by_cases hb : BadLength s
      · rw [if_pos hb, raise_eq] at h
        exact .inr (.inl ⟨⟨hkt, hl⟩, hb, (Host.Outcome.next.inj h).symm⟩)
      · rw [if_neg hb] at h
        by_cases hr : OutOfRange s s.len.toNat
        · rw [if_pos hr, raise_eq] at h
          exact .inr (.inr (.inl ⟨⟨hkt, hl⟩, hb, hr, (Host.Outcome.next.inj h).symm⟩))
        · rw [if_neg hr, succeed_eq] at h
          exact .inr (.inr (.inr ⟨⟨hkt, hl⟩, hb, hr, (Host.Outcome.next.inj h).symm⟩))
    · rw [if_pos hl] at h
      cases h

theorem chainedCommand_notKeyed (f : Nat → State → State) {s : State} (h : s.ctx.keyed = false) :
    chainedCommand f s = .next (s.finish .notKeyed) := by
  simp [chainedCommand, h]

theorem chainedCommand_badLength (f : Nat → State → State) {s : State} (h : s.Ready) (hb : BadLength s) :
    chainedCommand f s = .next (s.finish .invalidLength) := by
  rw [chainedCommand, if_neg (by simp [h.1]), if_neg (not_not.2 h.2), if_pos hb, raise_eq]

theorem chainedCommand_outOfRange (f : Nat → State → State) {s : State} (h : s.Ready) (hb : ¬ BadLength s)
    (hr : OutOfRange s s.len.toNat) : chainedCommand f s = .next (s.finish .addressRange) := by
  rw [chainedCommand, if_neg (by simp [h.1]), if_neg (not_not.2 h.2), if_neg hb, if_pos hr, raise_eq]

theorem chainedCommand_runs (f : Nat → State → State) {s : State} (h : s.Ready) (hb : ¬ BadLength s)
    (hr : ¬ OutOfRange s s.len.toNat) :
    chainedCommand f s = .next ((runBlocks f (blockCount s) s).finish .ok) := by
  rw [chainedCommand, if_neg (by simp [h.1]), if_neg (not_not.2 h.2), if_neg hb, if_neg hr, succeed_eq]

/-! ### The frames of a block -/

@[simp] theorem setChainValue_ctx (s : State) (cr : ChainReg) (v : List Byte) : (setChainValue s cr v).ctx = s.ctx := by
  simp [setChainValue]
@[simp] theorem setChainValue_keyin (s : State) (cr : ChainReg) (v : List Byte) : (setChainValue s cr v).keyin = s.keyin := by
  simp [setChainValue]
@[simp] theorem setChainValue_src (s : State) (cr : ChainReg) (v : List Byte) : (setChainValue s cr v).src = s.src := by
  simp [setChainValue]
@[simp] theorem setChainValue_dst (s : State) (cr : ChainReg) (v : List Byte) : (setChainValue s cr v).dst = s.dst := by
  simp [setChainValue]
@[simp] theorem setChainValue_len (s : State) (cr : ChainReg) (v : List Byte) : (setChainValue s cr v).len = s.len := by
  simp [setChainValue]
@[simp] theorem setChainValue_cmd (s : State) (cr : ChainReg) (v : List Byte) : (setChainValue s cr v).cmd = s.cmd := by
  simp [setChainValue]
@[simp] theorem setChainValue_err (s : State) (cr : ChainReg) (v : List Byte) : (setChainValue s cr v).err = s.err := by
  simp [setChainValue]
@[simp] theorem setChainValue_busy (s : State) (cr : ChainReg) (v : List Byte) : (setChainValue s cr v).busy = s.busy := by
  simp [setChainValue]
@[simp] theorem setChainValue_work (s : State) (cr : ChainReg) (v : List Byte) : (setChainValue s cr v).work = s.work := by
  simp [setChainValue]
@[simp] theorem setChainValue_port (s : State) (cr : ChainReg) (v : List Byte) : (setChainValue s cr v).port = s.port := by
  simp [setChainValue]
@[simp] theorem setChainValue_rdata (s : State) (cr : ChainReg) (v : List Byte) : (setChainValue s cr v).rdata = s.rdata := by
  simp [setChainValue]
@[simp] theorem setChainValue_dbuf (s : State) (cr : ChainReg) (v : List Byte) : (setChainValue s cr v).dbuf = s.dbuf := by
  simp [setChainValue]

/-- The other chaining register keeps its value (44 R225). -/
theorem setChainValue_cr_other (s : State) {cr cr' : ChainReg} (h : cr' ≠ cr) (v : List Byte) :
    (setChainValue s cr v).cr cr' = s.cr cr' := State.setCr_cr_other s h _

theorem setChainValue_cr_same (s : State) (cr : ChainReg) (v : List Byte) :
    (setChainValue s cr v).cr cr = bufPut (s.cr cr) v := State.setCr_cr_same s cr _

@[simp] theorem cbceBlock_ctx (cr : ChainReg) (i : Nat) (s : State) : (cbceBlock cr i s).ctx = s.ctx := by
  simp [cbceBlock]
@[simp] theorem cbceBlock_keyin (cr : ChainReg) (i : Nat) (s : State) : (cbceBlock cr i s).keyin = s.keyin := by
  simp [cbceBlock]
@[simp] theorem cbceBlock_src (cr : ChainReg) (i : Nat) (s : State) : (cbceBlock cr i s).src = s.src := by
  simp [cbceBlock]
@[simp] theorem cbceBlock_dst (cr : ChainReg) (i : Nat) (s : State) : (cbceBlock cr i s).dst = s.dst := by
  simp [cbceBlock]
@[simp] theorem cbceBlock_len (cr : ChainReg) (i : Nat) (s : State) : (cbceBlock cr i s).len = s.len := by
  simp [cbceBlock]
@[simp] theorem cbceBlock_cmd (cr : ChainReg) (i : Nat) (s : State) : (cbceBlock cr i s).cmd = s.cmd := by
  simp [cbceBlock]
@[simp] theorem cbceBlock_err (cr : ChainReg) (i : Nat) (s : State) : (cbceBlock cr i s).err = s.err := by
  simp [cbceBlock]
@[simp] theorem cbceBlock_busy (cr : ChainReg) (i : Nat) (s : State) : (cbceBlock cr i s).busy = s.busy := by
  simp [cbceBlock]
@[simp] theorem cbceBlock_work (cr : ChainReg) (i : Nat) (s : State) : (cbceBlock cr i s).work = s.work := by
  simp [cbceBlock]
@[simp] theorem cbceBlock_port (cr : ChainReg) (i : Nat) (s : State) : (cbceBlock cr i s).port = s.port := by
  simp [cbceBlock]
@[simp] theorem cbceBlock_rdata (cr : ChainReg) (i : Nat) (s : State) : (cbceBlock cr i s).rdata = s.rdata := by
  simp [cbceBlock]
@[simp] theorem cbcdBlock_ctx (cr : ChainReg) (i : Nat) (s : State) : (cbcdBlock cr i s).ctx = s.ctx := by
  simp [cbcdBlock]
@[simp] theorem cbcdBlock_keyin (cr : ChainReg) (i : Nat) (s : State) : (cbcdBlock cr i s).keyin = s.keyin := by
  simp [cbcdBlock]
@[simp] theorem cbcdBlock_src (cr : ChainReg) (i : Nat) (s : State) : (cbcdBlock cr i s).src = s.src := by
  simp [cbcdBlock]
@[simp] theorem cbcdBlock_dst (cr : ChainReg) (i : Nat) (s : State) : (cbcdBlock cr i s).dst = s.dst := by
  simp [cbcdBlock]
@[simp] theorem cbcdBlock_len (cr : ChainReg) (i : Nat) (s : State) : (cbcdBlock cr i s).len = s.len := by
  simp [cbcdBlock]
@[simp] theorem cbcdBlock_cmd (cr : ChainReg) (i : Nat) (s : State) : (cbcdBlock cr i s).cmd = s.cmd := by
  simp [cbcdBlock]
@[simp] theorem cbcdBlock_err (cr : ChainReg) (i : Nat) (s : State) : (cbcdBlock cr i s).err = s.err := by
  simp [cbcdBlock]
@[simp] theorem cbcdBlock_busy (cr : ChainReg) (i : Nat) (s : State) : (cbcdBlock cr i s).busy = s.busy := by
  simp [cbcdBlock]
@[simp] theorem cbcdBlock_work (cr : ChainReg) (i : Nat) (s : State) : (cbcdBlock cr i s).work = s.work := by
  simp [cbcdBlock]
@[simp] theorem cbcdBlock_port (cr : ChainReg) (i : Nat) (s : State) : (cbcdBlock cr i s).port = s.port := by
  simp [cbcdBlock]
@[simp] theorem cbcdBlock_rdata (cr : ChainReg) (i : Nat) (s : State) : (cbcdBlock cr i s).rdata = s.rdata := by
  simp [cbcdBlock]

@[simp] theorem runBlocks_cbceBlock_ctx (cr : ChainReg) (n : Nat) (s : State) : (runBlocks (cbceBlock cr) n s).ctx = s.ctx := by
  induction n with
  | zero => rfl
  | succ n ih => simp [runBlocks, ih]
@[simp] theorem runBlocks_cbceBlock_keyin (cr : ChainReg) (n : Nat) (s : State) : (runBlocks (cbceBlock cr) n s).keyin = s.keyin := by
  induction n with
  | zero => rfl
  | succ n ih => simp [runBlocks, ih]
@[simp] theorem runBlocks_cbceBlock_src (cr : ChainReg) (n : Nat) (s : State) : (runBlocks (cbceBlock cr) n s).src = s.src := by
  induction n with
  | zero => rfl
  | succ n ih => simp [runBlocks, ih]
@[simp] theorem runBlocks_cbceBlock_dst (cr : ChainReg) (n : Nat) (s : State) : (runBlocks (cbceBlock cr) n s).dst = s.dst := by
  induction n with
  | zero => rfl
  | succ n ih => simp [runBlocks, ih]
@[simp] theorem runBlocks_cbceBlock_len (cr : ChainReg) (n : Nat) (s : State) : (runBlocks (cbceBlock cr) n s).len = s.len := by
  induction n with
  | zero => rfl
  | succ n ih => simp [runBlocks, ih]
@[simp] theorem runBlocks_cbceBlock_cmd (cr : ChainReg) (n : Nat) (s : State) : (runBlocks (cbceBlock cr) n s).cmd = s.cmd := by
  induction n with
  | zero => rfl
  | succ n ih => simp [runBlocks, ih]
@[simp] theorem runBlocks_cbceBlock_err (cr : ChainReg) (n : Nat) (s : State) : (runBlocks (cbceBlock cr) n s).err = s.err := by
  induction n with
  | zero => rfl
  | succ n ih => simp [runBlocks, ih]
@[simp] theorem runBlocks_cbceBlock_busy (cr : ChainReg) (n : Nat) (s : State) : (runBlocks (cbceBlock cr) n s).busy = s.busy := by
  induction n with
  | zero => rfl
  | succ n ih => simp [runBlocks, ih]
@[simp] theorem runBlocks_cbceBlock_work (cr : ChainReg) (n : Nat) (s : State) : (runBlocks (cbceBlock cr) n s).work = s.work := by
  induction n with
  | zero => rfl
  | succ n ih => simp [runBlocks, ih]
@[simp] theorem runBlocks_cbceBlock_port (cr : ChainReg) (n : Nat) (s : State) : (runBlocks (cbceBlock cr) n s).port = s.port := by
  induction n with
  | zero => rfl
  | succ n ih => simp [runBlocks, ih]
@[simp] theorem runBlocks_cbceBlock_rdata (cr : ChainReg) (n : Nat) (s : State) : (runBlocks (cbceBlock cr) n s).rdata = s.rdata := by
  induction n with
  | zero => rfl
  | succ n ih => simp [runBlocks, ih]
@[simp] theorem runBlocks_cbcdBlock_ctx (cr : ChainReg) (n : Nat) (s : State) : (runBlocks (cbcdBlock cr) n s).ctx = s.ctx := by
  induction n with
  | zero => rfl
  | succ n ih => simp [runBlocks, ih]
@[simp] theorem runBlocks_cbcdBlock_keyin (cr : ChainReg) (n : Nat) (s : State) : (runBlocks (cbcdBlock cr) n s).keyin = s.keyin := by
  induction n with
  | zero => rfl
  | succ n ih => simp [runBlocks, ih]
@[simp] theorem runBlocks_cbcdBlock_src (cr : ChainReg) (n : Nat) (s : State) : (runBlocks (cbcdBlock cr) n s).src = s.src := by
  induction n with
  | zero => rfl
  | succ n ih => simp [runBlocks, ih]
@[simp] theorem runBlocks_cbcdBlock_dst (cr : ChainReg) (n : Nat) (s : State) : (runBlocks (cbcdBlock cr) n s).dst = s.dst := by
  induction n with
  | zero => rfl
  | succ n ih => simp [runBlocks, ih]
@[simp] theorem runBlocks_cbcdBlock_len (cr : ChainReg) (n : Nat) (s : State) : (runBlocks (cbcdBlock cr) n s).len = s.len := by
  induction n with
  | zero => rfl
  | succ n ih => simp [runBlocks, ih]
@[simp] theorem runBlocks_cbcdBlock_cmd (cr : ChainReg) (n : Nat) (s : State) : (runBlocks (cbcdBlock cr) n s).cmd = s.cmd := by
  induction n with
  | zero => rfl
  | succ n ih => simp [runBlocks, ih]
@[simp] theorem runBlocks_cbcdBlock_err (cr : ChainReg) (n : Nat) (s : State) : (runBlocks (cbcdBlock cr) n s).err = s.err := by
  induction n with
  | zero => rfl
  | succ n ih => simp [runBlocks, ih]
@[simp] theorem runBlocks_cbcdBlock_busy (cr : ChainReg) (n : Nat) (s : State) : (runBlocks (cbcdBlock cr) n s).busy = s.busy := by
  induction n with
  | zero => rfl
  | succ n ih => simp [runBlocks, ih]
@[simp] theorem runBlocks_cbcdBlock_work (cr : ChainReg) (n : Nat) (s : State) : (runBlocks (cbcdBlock cr) n s).work = s.work := by
  induction n with
  | zero => rfl
  | succ n ih => simp [runBlocks, ih]
@[simp] theorem runBlocks_cbcdBlock_port (cr : ChainReg) (n : Nat) (s : State) : (runBlocks (cbcdBlock cr) n s).port = s.port := by
  induction n with
  | zero => rfl
  | succ n ih => simp [runBlocks, ih]
@[simp] theorem runBlocks_cbcdBlock_rdata (cr : ChainReg) (n : Nat) (s : State) : (runBlocks (cbcdBlock cr) n s).rdata = s.rdata := by
  induction n with
  | zero => rfl
  | succ n ih => simp [runBlocks, ih]

@[simp] theorem transformBlock_ctx (f : Context → List Byte → List Byte) (s : State) : (transformBlock f s).ctx = s.ctx := rfl
@[simp] theorem transformBlock_keyin (f : Context → List Byte → List Byte) (s : State) : (transformBlock f s).keyin = s.keyin := rfl
@[simp] theorem transformBlock_src (f : Context → List Byte → List Byte) (s : State) : (transformBlock f s).src = s.src := rfl
@[simp] theorem transformBlock_dst (f : Context → List Byte → List Byte) (s : State) : (transformBlock f s).dst = s.dst := rfl
@[simp] theorem transformBlock_len (f : Context → List Byte → List Byte) (s : State) : (transformBlock f s).len = s.len := rfl
@[simp] theorem transformBlock_cmd (f : Context → List Byte → List Byte) (s : State) : (transformBlock f s).cmd = s.cmd := rfl
@[simp] theorem transformBlock_err (f : Context → List Byte → List Byte) (s : State) : (transformBlock f s).err = s.err := rfl
@[simp] theorem transformBlock_busy (f : Context → List Byte → List Byte) (s : State) : (transformBlock f s).busy = s.busy := rfl
@[simp] theorem transformBlock_work (f : Context → List Byte → List Byte) (s : State) : (transformBlock f s).work = s.work := rfl
@[simp] theorem transformBlock_port (f : Context → List Byte → List Byte) (s : State) : (transformBlock f s).port = s.port := rfl
@[simp] theorem transformBlock_rdata (f : Context → List Byte → List Byte) (s : State) : (transformBlock f s).rdata = s.rdata := rfl
@[simp] theorem transformBlock_cr0 (f : Context → List Byte → List Byte) (s : State) : (transformBlock f s).cr0 = s.cr0 := rfl
@[simp] theorem transformBlock_cr1 (f : Context → List Byte → List Byte) (s : State) : (transformBlock f s).cr1 = s.cr1 := rfl

/-! ### Lengths of the block functions -/

@[simp] theorem loadState_length (b : List Byte) (nb : Nat) : (loadState b nb).length = nb := by simp [loadState]
@[simp] theorem subBytes_length (a : List Column) : (subBytes a).length = a.length := by simp [subBytes]
@[simp] theorem invSubBytes_length (a : List Column) : (invSubBytes a).length = a.length := by simp [invSubBytes]
@[simp] theorem mixColumns_length (a : List Column) : (mixColumns a).length = a.length := by simp [mixColumns]
@[simp] theorem invMixColumns_length (a : List Column) : (invMixColumns a).length = a.length := by simp [invMixColumns]
@[simp] theorem shiftRows_length (nb : Nat) (a : List Column) : (shiftRows nb a).length = nb := by simp [shiftRows]
@[simp] theorem invShiftRows_length (nb : Nat) (a : List Column) : (invShiftRows nb a).length = nb := by simp [invShiftRows]

theorem addRoundKey_length {c : Context} (h : c.Legal) {k : Nat} (hk : k ≤ c.nr.toNat) {a : List Column}
    (ha : a.length = c.nb.toNat) : (addRoundKey c a k).length = c.nb.toNat := by
  simp [addRoundKey, ha, roundKey_length h hk]

theorem storeState_length (a : List Column) : (storeState a).length = 4 * a.length := by
  induction a with
  | nil => rfl
  | cons x a ih => simp only [storeState, List.flatMap_cons, List.length_append, columnBytes, List.length_cons, List.length_nil] at *; omega

theorem forwardRounds_length {c : Context} (h : c.Legal) {n : Nat} (hn : n ≤ c.nr.toNat) {a : List Column}
    (ha : a.length = c.nb.toNat) : (forwardRounds c n a).length = c.nb.toNat := by
  induction n with
  | zero => exact ha
  | succ n _ => exact addRoundKey_length h hn (by simp)

theorem inverseRounds_length {c : Context} (n : Nat) {a : List Column}
    (ha : a.length = c.nb.toNat) : (inverseRounds c n a).length = c.nb.toNat := by
  induction n generalizing a with
  | zero => exact ha
  | succ n ih => exact ih (by simp [inverseRound])

/-- A block of a legal context encrypts to a block of `BB` bytes (43 R200). -/
theorem encryptBlock_length {c : Context} (h : c.Legal) (p : List Byte) : (encryptBlock c p).length = blockBytes c := by
  rw [encryptBlock, storeState_length, encryptState, finalRound, addRoundKey_length h (le_refl _) (by simp), blockBytes]

/-- A block of a legal context decrypts to a block of `BB` bytes (43 R201). -/
theorem decryptBlock_length {c : Context} (h : c.Legal) (p : List Byte) : (decryptBlock c p).length = blockBytes c := by
  rw [decryptBlock, storeState_length, decryptState,
    addRoundKey_length h (Nat.zero_le _) (inverseRounds_length _ (by simp [inverseFinalRound])), blockBytes]

/-! ### A step -/

/-- Everything a step can do: wait, serve a read, store a write, run or reject a command, reset. -/
theorem step_cases {s t : State} (h : step s = .next t) :
    (s.port = [] ∧ t = s) ∨
      ∃ e rest, s.port = e :: rest ∧
        ((e = .wait ∧ t = { s with port := rest }) ∨
          (∃ draw, e = .reset draw ∧ t = applyReset draw { s with port := rest }) ∨
          (∃ wa, e = .read wa ∧ t = { s with port := rest, rdata := some (hostRead wa { s with port := rest }) }) ∨
          (∃ wa d, e = .write wa d ∧ wa ≠ 0 ∧ s.busy = false ∧ t = storeWrite wa d { s with port := rest }) ∨
          (∃ d i, e = .write 0 d ∧ s.busy = false ∧ decode d = .command i ∧
            exec i (acceptCommand d { s with port := rest }) = .next t) ∨
          (∃ d why, e = .write 0 d ∧ s.busy = false ∧ decode d = .illegal why ∧
            t = (acceptCommand d { s with port := rest }).finish .illegalCommand)) := by
  unfold step at h
  cases hp : s.port with
  | nil =>
    simp only [hp] at h
    exact .inl ⟨rfl, (Host.Outcome.next.inj h).symm⟩
  | cons e rest =>
    simp only [hp] at h
    refine .inr ⟨e, rest, rfl, ?_⟩
    cases e with
    | wait => exact .inl ⟨rfl, (Host.Outcome.next.inj h).symm⟩
    | reset draw => exact .inr (.inl ⟨draw, rfl, (Host.Outcome.next.inj h).symm⟩)
    | read wa =>
      simp only [serve] at h
      split at h
      · cases h
      · exact .inr (.inr (.inl ⟨wa, rfl, (Host.Outcome.next.inj h).symm⟩))
    | write wa d =>
      simp only [serve] at h
      split at h
      · cases h
      · next hb =>
        have hb' : s.busy = false := by simpa using hb
        unfold hostWrite at h
        split at h
        · next h0 =>
          subst h0
          unfold issue at h
          split at h
          · next i hi => exact .inr (.inr (.inr (.inr (.inl ⟨d, i, rfl, hb', hi, h⟩))))
          · next why hi => exact .inr (.inr (.inr (.inr (.inr ⟨d, why, rfl, hb', hi, (Host.Outcome.next.inj h).symm⟩))))
        · next h0 => exact .inr (.inr (.inr (.inl ⟨wa, d, rfl, h0, hb', (Host.Outcome.next.inj h).symm⟩)))

end Sys2Proof.Machine
end

