-- ==== Sys2Proof/Laws/PerInstr.lean ====
section
/-! SUPPORT. The family `WordLayout`: the word of every command matches its row of the opcode table (spec/30_encoding.md R96). -/

namespace Sys2Proof.Laws.WordLayout

/-- The encoding of a command carries its row's fixed bits. -/
def Statement (i : Instr) : Prop := encode i &&& maskWord i = matchWord i

theorem setkey (kbits bbits : Nat) : Statement (.setkey kbits bbits) := by
  unfold Statement encode maskWord matchWord
  apply BitVec.eq_of_getLsbD_eq
  intro j hj
  rw [BitVec.getLsbD_and, BitVec.getLsbD_append, BitVec.getLsbD_append]
  by_cases h1 : j < 12
  · have hm : ∀ j : Fin 12, (0xFF000000#32).getLsbD j = false ∧ (0x10000000#32).getLsbD j = false := by decide
    have hz := hm ⟨j, h1⟩
    simp only at hz
    rw [hz.1, hz.2, Bool.and_false]
  · by_cases h2 : j - 12 < 12
    · have hm : ∀ j : Fin 12, (0xFF000000#32).getLsbD (j + 12) = false ∧ (0x10000000#32).getLsbD (j + 12) = false := by decide
      have hz := hm ⟨j - 12, h2⟩
      simp only [Nat.sub_add_cancel (Nat.le_of_not_lt h1)] at hz
      rw [hz.1, hz.2, Bool.and_false]
    · have hm : ∀ j : Fin 8, ((0x1#4 ++ 0x0#4 : BitVec 8).getLsbD j && (0xFF000000#32).getLsbD (j + 24)) =
          (0x10000000#32).getLsbD (j + 24) := by decide
      have hz := hm ⟨j - 12 - 12, by omega⟩
      simp only [show j - 12 - 12 + 24 = j by omega] at hz
      simp only [h1, h2, if_false]
      exact hz

theorem enc : Statement .enc := by unfold Statement; decide

theorem dec : Statement .dec := by unfold Statement; decide

theorem cbce (cr : ChainReg) : Statement (.cbce cr) := by unfold Statement; cases cr <;> decide

theorem cbcd (cr : ChainReg) : Statement (.cbcd cr) := by unfold Statement; cases cr <;> decide

end Sys2Proof.Laws.WordLayout
end

