-- ==== Sys2Proof/Laws/Reset.lean ====
section
/-! SUPPORT. What a reset does to each field, between commands and inside one. -/

namespace Sys2Proof.Machine

/-! ### Field by field -/

@[simp] theorem applyReset_ctx (draw : ResetDraw) (s : State) : (applyReset draw s).ctx = Context.unkeyed := rfl
@[simp] theorem applyReset_keyin (draw : ResetDraw) (s : State) : (applyReset draw s).keyin = draw.keyin := rfl
@[simp] theorem applyReset_cr (draw : ResetDraw) (s : State) (cr : ChainReg) :
    (applyReset draw s).cr cr = resetCr (match cr with | .cr0 => draw.cr0 | .cr1 => draw.cr1) s cr := by cases cr <;> rfl
@[simp] theorem applyReset_src (draw : ResetDraw) (s : State) : (applyReset draw s).src = 0 := rfl
@[simp] theorem applyReset_dst (draw : ResetDraw) (s : State) : (applyReset draw s).dst = 0 := rfl
@[simp] theorem applyReset_len (draw : ResetDraw) (s : State) : (applyReset draw s).len = 0 := rfl
@[simp] theorem applyReset_cmd (draw : ResetDraw) (s : State) : (applyReset draw s).cmd = 0 := rfl
@[simp] theorem applyReset_err (draw : ResetDraw) (s : State) : (applyReset draw s).err = 0 := rfl
@[simp] theorem applyReset_busy (draw : ResetDraw) (s : State) : (applyReset draw s).busy = false := rfl
@[simp] theorem applyReset_dbuf (draw : ResetDraw) (s : State) : (applyReset draw s).dbuf = resetDbuf draw.dbuf s := rfl
@[simp] theorem applyReset_work (draw : ResetDraw) (s : State) : (applyReset draw s).work = Work.zero := rfl
@[simp] theorem applyReset_port (draw : ResetDraw) (s : State) : (applyReset draw s).port = s.port := rfl
@[simp] theorem applyReset_rdata (draw : ResetDraw) (s : State) : (applyReset draw s).rdata = s.rdata := rfl

/-! ### Between commands: everything unspecified is drawn -/

theorem blocksStored_idle {s : State} (h : s.work.fsm = .idle) : blocksStored s = 0 := by
  unfold blocksStored storedByFsm
  rw [h]
  split <;> rfl

theorem chainWritten_idle {s : State} (h : s.work.fsm = .idle) (cr : ChainReg) : chainWritten s cr = false := by
  unfold chainWritten chainUpdatedByFsm
  rw [h]
  split <;> simp

theorem resetDbuf_idle (drawn : List Byte) {s : State} (h : s.work.fsm = .idle) :
    resetDbuf drawn s = memWrite [] 0 (drawn.take Config.dbufBytes) := by
  simp [resetDbuf, writtenBytes, blocksStored_idle h, memRead, memWrite]

theorem resetCr_idle (drawn : Vector Byte 32) {s : State} (h : s.work.fsm = .idle) (cr : ChainReg) :
    resetCr drawn s cr = drawn := by simp [resetCr, chainWritten_idle h]

/-! ### Inside a command: what it has written stays -/

/-- A byte of `DBUF` after a reset: the one the command in progress has written, else the drawn one. -/
theorem memGet_resetDbuf (drawn : List Byte) (s : State) (a : Nat) :
    memGet (resetDbuf drawn s) a =
      if s.dst.toNat ≤ a ∧ a < s.dst.toNat + (writtenBytes s).length then memGet s.dbuf a
      else memGet (memWrite [] 0 (drawn.take Config.dbufBytes)) a := by
  rw [resetDbuf, memGet_memWrite]
  split
  · next h =>
    have hj : a - s.dst.toNat < min (blocksStored s * blockBytes s.ctx) (Config.dbufBytes - s.dst.toNat) := by
      have := h.2
      simp only [writtenBytes, memRead_length] at this
      omega
    rw [writtenBytes, memRead_getD _ _ _ hj, Nat.add_sub_cancel' h.1]
  · rfl

/-- `DBUF` after a reset is in canonical form. -/
theorem memWf_resetDbuf (drawn : List Byte) (s : State) : Memory.wf (resetDbuf drawn s) = true := by
  have hdrawn : Memory.wf (memWrite [] 0 (drawn.take Config.dbufBytes)) = true :=
    memWf_memWrite rfl _ (by simp only [List.length_take]; omega)
  by_cases h : s.dst.toNat ≤ Config.dbufBytes
  · exact memWf_memWrite hdrawn _ (by simp only [writtenBytes, memRead_length]; omega)
  · have hw : writtenBytes s = [] := by
      apply List.eq_nil_of_length_eq_zero
      simp only [writtenBytes, memRead_length]
      omega
    rw [resetDbuf, hw]
    exact hdrawn

end Sys2Proof.Machine
end

