-- ==== Sys2Proof/Laws/Script.lean ====
section
/-! SUPPORT. What the host's sequences of accesses do, said once. -/

namespace Sys2Proof.Machine

@[simp] theorem storeWrite_busy (wa : Nat) (d : Word) (s : State) : (storeWrite wa d s).busy = s.busy := by
  unfold storeWrite
  split <;> first | rfl | exact State.setCr_busy _ _ _

/-- Accesses one after another: the first part, then the second from where it ended, the values read in order. -/
theorem perform_append {l l' : List HostAccess} {s t : State} {v : List Word} (h : perform l s = .next (v, t)) :
    perform (l ++ l') s =
      match perform l' t with
      | .next (v', u) => .next (v ++ v', u)
      | .fault r => .fault r
      | .refused r => .refused r := by
  induction l generalizing s v with
  | nil =>
    cases h
    simp only [List.nil_append]
    split <;> simp_all
  | cons e l ih =>
    simp only [perform, List.cons_append] at h ⊢
    cases hs : serve e s with
    | fault r => simp [hs] at h
    | refused r => simp [hs] at h
    | next t1 =>
      simp only [hs] at h ⊢
      cases hp : perform l t1 with
      | fault r => simp [hp] at h
      | refused r => simp [hp] at h
      | next p =>
        obtain ⟨v1, u⟩ := p
        simp only [hp, Host.Outcome.next.injEq, Prod.mk.injEq] at h
        obtain ⟨rfl, rfl⟩ := h
        rw [ih hp]
        cases perform l' u with
        | fault r => rfl
        | refused r => rfl
        | next q => obtain ⟨v2, w⟩ := q; simp

/-- A read while idle returns the value of the map and changes no state of the engine. -/
theorem perform_read {s : State} (h : s.busy = false) (wa : Nat) :
    perform [.read wa] s = .next ([hostRead wa s], { s with rdata := some (hostRead wa s) }) := by
  simp [perform, serve, readValue, h]

/-- A storing write while idle. -/
theorem perform_write {s : State} (h : s.busy = false) {wa : Nat} (hwa : wa ≠ 0) (d : Word) :
    perform [.write wa d] s = .next ([], storeWrite wa d s) := by
  simp [perform, serve, hostWrite, readValue, h, hwa]

/-- A `CMD` write while idle, whose command ends in a next state. -/
theorem perform_command {s t : State} (h : s.busy = false) {d : Word} (hd : issue d s = .next t) :
    perform [.write 0x000 d] s = .next ([], t) := by
  simp [perform, serve, hostWrite, readValue, h, hd]

/-- Everything a procedure can answer: the result code that the call's last read shows, with the output's words after a
success and none after an error. -/
theorem procedure_cases {call reads : List HostAccess} {s : State} {r : Reply} (h : procedure call reads s = .next r) :
    ∃ v t, perform call s = .next (v, t) ∧ r.code = resultCode v ∧
      ((r.code = 0 ∧ perform reads t = .next (r.output, r.state)) ∨ (r.code ≠ 0 ∧ r.output = [] ∧ r.state = t)) := by
  unfold procedure at h
  split at h
  · next v t hc =>
    split at h
    · next h0 =>
      split at h
      · next w u hr =>
        cases h
        exact ⟨v, t, hc, rfl, .inl ⟨h0, hr⟩⟩
      · cases h
      · cases h
    · next h0 =>
      cases h
      exact ⟨v, t, hc, rfl, .inr ⟨h0, rfl, rfl⟩⟩
  · cases h
  · cases h

end Sys2Proof.Machine
end

