-- ==== Sys2Proof/Tests/Slice0.lean ====
section
/-! SUPPORT. The model's own tests: the WellFormed smoke, words decoded from the spec's encodings, at most two single-step tests a
command with results from spec/95_test_vectors.md, and a witness for the hypotheses of every statement of
Sys2Proof/Certificates/Slice0/Obligations.lean. -/

namespace Sys2Proof.Tests

open Sys2Proof.Machine

/-! ### Helpers -/

/-- The key `00 01 02 ...` of `n` bytes (95 section 2.4). -/
def countingKey (n : Nat) : List Byte := (List.range n).map (BitVec.ofNat 8)

/-- The plaintext bytes `(0x11 * j) mod 256` (95 section 2.5). -/
def elevens (n : Nat) : List Byte := (List.range n).map fun j => BitVec.ofNat 8 (0x11 * j)

/-- A buffer that begins with the given bytes. -/
def bufOf (b : List Byte) : Vector Byte 32 := bufPut (Vector.replicate 32 0) b

/-- The bytes of words. -/
def bytesOf (w : List Word) : List Byte := w.flatMap wordBytes

/-- After reset, with key bytes in `KEYIN`. -/
def withKey (key : List Byte) : State := { State.reset with keyin := bufOf key }

/-- Keyed by `SETKEY`'s context for a key, with bytes of `DBUF` from offset 0 and the operand registers set. -/
def keyedState (key : List Byte) (nk nb : Nat) (buf : List Byte) (src dst len : Word) : State :=
  { State.reset with
    ctx := keyedContext key nk nb
    dbuf := memWrite [] 0 buf
    src := src
    dst := dst
    len := len }

/-- A keyed context with a schedule of zeros: legal, and quick to compute with. -/
def zeroContext : Context := { nb := 4, nk := 4, nr := 10, keyed := true, rklen := 44, rk := List.replicate 44 0 }

/-- A state that can run a data command. -/
def ready (src dst len : Word) : State := { State.reset with ctx := zeroContext, src := src, dst := dst, len := len }

/-- The same state with one host access to come. -/
def offer (e : HostAccess) (s : State) : State := { s with port := [e] }

/-- A field of the next state, if there is one. -/
def after {α : Type} (o : Host.Outcome State Fault Refusal) (f : State → α) : Option α :=
  match o with
  | .next t => some (f t)
  | .fault _ => none
  | .refused _ => none

theorem zeroContext_legal : zeroContext.Legal := by decide

theorem ready_ready (src dst len : Word) : (ready src dst len).Ready := ⟨rfl, zeroContext_legal⟩

/-! ### WellFormed smoke: an ill-formed term for each check -/

theorem test_wf_setkey_kbits_too_wide : ¬ WellFormed (.setkey 4096 128) := by decide
theorem test_wf_setkey_bbits_too_wide : ¬ WellFormed (.setkey 128 4096) := by decide
theorem test_wf_setkey_boundary : WellFormed (.setkey 4095 4095) := by decide
theorem test_wf_keySetup_refuses_wide_size : keySetup [] 4096 128 = none := by decide

/-! ### Decoding: words written out bit by bit from 30 R92 to R94 -/

theorem test_decode_setkey :
    decode (0b0001_0000_000010000000_000011000000#32) = .command (.setkey 192 128) := by decide
theorem test_decode_enc : decode (0b0010_0000_0000_0000_0000_0000_0000_0000#32) = .command .enc := by decide
theorem test_decode_dec : decode (0b0011_0000_0000_0000_0000_0000_0000_0000#32) = .command .dec := by decide
theorem test_decode_cbce : decode (0b0100_0000_0000_0000_0000_0000_0000_0001#32) = .command (.cbce .cr1) := by decide
theorem test_decode_cbcd : decode (0b0101_0000_0000_0000_0000_0000_0000_0000#32) = .command (.cbcd .cr0) := by decide
theorem test_decode_reserved_bit : decode (0b0101_0000_0000_0000_0000_0000_0000_0010#32) = .illegal .reservedBits := by decide
theorem test_decode_op_zero : decode (0b0000_0000_0000_0000_0000_0000_0000_0000#32) = .illegal .noSuchOp := by decide
theorem test_table_word_setkey : decodeTableWord 32 0x10100080 = some (.setkey 128 256) := by decide
theorem test_first_step_after_reset :
    after (step (State.reset.withFetchWord 32 0x10080080)) (fun t => (t.cmd, t.ctx.nb)) = some (0x10080080#32, 4#4) := by
  decide +kernel

/-! ### Single steps -/

/-- 95 section 2.4, 41 R150: key `00..0F`, `SETKEY 128, 128`: `RK[4]`, `RK[43]` and `CFG`. -/
theorem test_setkey_128 :
    after (step (offer (.write 0 0x10080080#32) (withKey (countingKey 16))))
      (fun t => (t.ctx.rk.getD 4 0, t.ctx.rk.getD 43 0, hostRead 5 t, hostRead 1 t)) =
      some (0xD6AA74FD#32, 0x4D2B30C5#32, 0x002C0A44#32, 0x00000002#32) := by decide +kernel

/-- 95 section 2.4, the `Nk > 6` branch: key `00..1F`, `SETKEY 256, 192`: `RK[12]`, `RK[89]` and `CFG`. -/
theorem test_setkey_256_192 :
    after (step (offer (.write 0 0x100C0100#32) (withKey (countingKey 32))))
      (fun t => (t.ctx.rk.getD 12 0, t.ctx.rk.getD 89 0, hostRead 5 t)) =
      some (0x1651A8CD#32, 0xF86627AA#32, 0x005A0E86#32) := by decide +kernel

/-- 95 section 1: the source's known-answer vector. -/
theorem test_enc_known_answer :
    after (exec .enc (keyedState (countingKey 16) 4 4 (elevens 16) 0 16 0)) (fun t => memRead t.dbuf 16 16) =
      some (bytesOf [0x69C4E0D8#32, 0x6A7B0430#32, 0xD8CDB780#32, 0x70B4C55A#32]) := by decide +kernel

/-- 95 section 2.5: key 192, block 256. -/
theorem test_enc_192_256 :
    after (exec .enc (keyedState (countingKey 24) 6 8 (elevens 32) 0 64 0)) (fun t => memRead t.dbuf 64 32) =
      some (bytesOf [0x3C386395#32, 0xE910345A#32, 0x59A7DD16#32, 0x5DCBDA60#32, 0x4BF072F0#32, 0xA03A6B00#32,
        0x55A79B73#32, 0x4E668868#32]) := by decide +kernel

/-- 95 section 1 backwards, in place at the last block of `DBUF`. -/
theorem test_dec_known_answer :
    after (exec .dec { keyedState (countingKey 16) 4 4 [] 4080 4080 0 with
        dbuf := memWrite [] 4080 (bytesOf [0x69C4E0D8#32, 0x6A7B0430#32, 0xD8CDB780#32, 0x70B4C55A#32]) })
      (fun t => memRead t.dbuf 4080 16) = some (elevens 16) := by decide +kernel

/-- 95 section 2.5: key 256, block 192. -/
theorem test_dec_256_192 :
    after (exec .dec (keyedState (countingKey 32) 8 6
        (bytesOf [0x65D851DF#32, 0x8D04B5CB#32, 0xB510935F#32, 0xDD1EB17B#32, 0x33EFB8CB#32, 0x255EE712#32]) 0 100 0))
      (fun t => memRead t.dbuf 100 24) = some (elevens 24) := by decide +kernel

/-- The key of 95 section 2.7. -/
def cbcKey : List Byte := bytesOf [0x2B7E1516#32, 0x28AED2A6#32, 0xABF71588#32, 0x09CF4F3C#32]
/-- The plaintext of 44 R218's worked example. -/
def cbcPlain : List Byte :=
  bytesOf [0x6BC1BEE2#32, 0x2E409F96#32, 0xE93D7E11#32, 0x7393172A#32, 0xAE2D8A57#32, 0x1E03AC9C#32, 0x9EB76FAC#32, 0x45AF8E51#32]
/-- The ciphertext of 44 R218's worked example. -/
def cbcCipher : List Byte :=
  bytesOf [0x7649ABAC#32, 0x8119B246#32, 0xCEE98E9B#32, 0x12E9197D#32, 0x5086CB9B#32, 0x507219EE#32, 0x95DB113A#32, 0x917678B2#32]

/-- 44 R218's worked example; the register ends as the last ciphertext block. -/
theorem test_cbce_two_blocks :
    after (exec (.cbce .cr0) { keyedState cbcKey 4 4 cbcPlain 0 64 32 with cr0 := bufOf (countingKey 16) })
      (fun t => (memRead t.dbuf 64 32, bufTake t.cr0 16)) = some (cbcCipher, cbcCipher.drop 16) := by decide +kernel

/-- 95 section 2.6: a length of 20 bytes is no multiple of 16. -/
theorem test_cbce_invalid_length : after (exec (.cbce .cr0) (ready 0 0 20)) (fun t => t.err) = some 3#4 := by
  decide +kernel

/-- 44 R220's worked example, in place: the register ends as the last ciphertext block consumed. -/
theorem test_cbcd_in_place :
    after (exec (.cbcd .cr1) { keyedState cbcKey 4 4 cbcCipher 0 0 32 with cr1 := bufOf (countingKey 16) })
      (fun t => (memRead t.dbuf 0 32, bufTake t.cr1 16)) = some (cbcPlain, cbcCipher.drop 16) := by decide +kernel

/-- 95 section 2.6: `LEN = 0` with a start past the end of `DBUF`. -/
theorem test_cbcd_address_range :
    after (exec (.cbcd .cr0) (ready 0xFFFFFFFF 0xFFFFFFFF 0)) (fun t => t.err) = some 4#4 := by decide +kernel

/-- 95 section 2.6: an unkeyed `CBCE` with a bad length reports `NotKeyed`. -/
theorem test_not_keyed_first : after (issue 0x40000000#32 { State.reset with len := 5 }) (hostRead 1) = some 0x00000020#32 := by
  decide +kernel

/-- 95 section 2.6: the all-ones word. -/
theorem test_illegal_command : after (issue 0xFFFFFFFF#32 State.reset) (hostRead 1) = some 0x00000050#32 := by decide +kernel

/-- 45 R243: the first byte of a word written to `DBUF_W[1]` is its top byte. -/
theorem test_dbuf_window :
    after (step (offer (.write 0x401 0x01020304#32) State.reset)) (fun t => t.dbuf) = some [(4, 1), (5, 2), (6, 3), (7, 4)] := by
  decide +kernel

/-- 46 R273: a rejected command takes `CHECK` and `DONE`. -/
theorem test_fsm_illegal : after (ticks 2 (startCommand 0 State.reset)) (fun t => (t.work.fsm, hostRead 1 t)) =
    some (.idle, 0x00000050#32) := by decide +kernel

/-- 95 section 1 through the control state machine: 18 transitions for `ENC` with `NR = 10` (46 R273). -/
theorem test_fsm_enc_known_answer :
    after (ticks 18 (startCommand 0x20000000#32 (keyedState (countingKey 16) 4 4 (elevens 16) 0 16 0)))
      (fun t => (t.work.fsm, memRead t.dbuf 16 16)) =
      some (.idle, bytesOf [0x69C4E0D8#32, 0x6A7B0430#32, 0xD8CDB780#32, 0x70B4C55A#32]) := by decide +kernel

/-- 70 R301: a reset in `B_CHAIN` of an `ENC` to offset 16 keeps the byte that the command stored and draws the others. -/
theorem test_reset_inside_command :
    after (cycle (offer (.reset { keyin := bufOf [], cr0 := bufOf [], cr1 := bufOf [], dbuf := List.replicate 41 0xEE#8 })
        { ready 0 16 0 with
          cmd := 0x20000000, busy := true, dbuf := [(16, 5), (40, 7)], work := { Work.zero with fsm := .bChain } }))
      (fun t => (memGet t.dbuf 16, memGet t.dbuf 31, memGet t.dbuf 32, memGet t.dbuf 40, t.ctx.keyed)) =
      some (5, 0, 0xEE, 0xEE, false) := by decide +kernel

/-- 45 R249 b, c, on an unkeyed engine: result code 2 and no output. -/
theorem test_procedures_not_keyed :
    (match runBlock true (elevens 16) 0 16 State.reset, runChained false .cr1 (some (elevens 16)) (elevens 16) 0 0 State.reset with
      | .next r, .next r' => some (r.code, r.output, r'.code, r'.output, bufTake r'.state.cr1 16)
      | _, _ => none) = some (2, [], 2, [], elevens 16) := by decide +kernel

/-! ### Witnesses: a state and operands that meet the hypotheses of each statement -/

theorem witness_EveryCommandIsReadBackFromItsWord : WellFormed (.setkey 4095 0) ∧ WellFormed (.cbcd .cr1) := by decide

theorem witness_ADecodedWordIsTheCommandsWord : decode 0x10FFF000#32 = .command (.setkey 0 4095) := by decide

theorem witness_IllegalWordsSetErrAndNothingElse :
    (offer (.write 0 0x60000000#32) State.reset).port = .write 0x000 0x60000000#32 :: [] ∧
      (offer (.write 0 0x60000000#32) State.reset).busy = false ∧ decode 0x60000000#32 = .illegal .noSuchOp ∧
      decode 0x1F080080#32 = .illegal .reservedBits ∧ decode 0xF0000000#32 = .illegal .noSuchOp := by decide

theorem witness_AStepExecutesTheDecodedCommand :
    (offer (.write 0 0x20000000#32) State.reset).port = .write 0x000 0x20000000#32 :: [] ∧
      (offer (.write 0 0x20000000#32) State.reset).busy = false ∧ decode 0x20000000#32 = .command .enc := by decide

theorem witness_SetkeyReplacesTheContextWhole : Config.LegalSize 256 ∧ Config.LegalSize 128 ∧ Config.LegalSize 192 := by decide

theorem witness_SetkeyRejectsIllegalSizes :
    ¬ (Config.LegalSize 130 ∧ Config.LegalSize 128) ∧ ¬ (Config.LegalSize 128 ∧ Config.LegalSize 4095) := by decide

theorem witness_ScheduleWordsFollowTheRecurrence :
    LegalWords 8 ∧ LegalWords 6 ∧ (countingKey 32).length = 4 * 8 ∧ 7 < 8 ∧ 8 ≤ 89 ∧ 89 < (max 6 8 + 6 + 1) * 6 := by decide

theorem witness_ShorterScheduleIsAPrefix : LegalWords 4 ∧ LegalWords 6 ∧ LegalWords 8 ∧ 4 ≤ 8 := by decide

theorem witness_SboxIsTheAffineMapOfTheInverse : (0x02#8 : Byte) ≠ 0x00#8 ∧ gmul 0x02#8 0x8D#8 = 0x01#8 := by decide

theorem witness_FieldArithmeticLaws : (0x03#8 : Byte) ≠ 0x00#8 := by decide

theorem witness_BlocksLieInTheStateColumnByColumn : (elevens 32).length = 4 * 8 ∧ 3 < 4 ∧ 7 < 8 := by decide

theorem witness_RowsRotateByTheOffsetTable :
    LegalWords 8 ∧ (loadState (elevens 32) 8).length = 8 ∧ 3 < 4 ∧ 7 < 8 := by decide

theorem witness_MixColumnsIsThePolynomialProduct : 7 < (loadState (elevens 32) 8).length ∧ 0 < 4 ∧ 3 < 4 := by decide

theorem witness_RoundTransformationsAreInvertible :
    zeroContext.Legal ∧ (loadState (elevens 16) 4).length = zeroContext.nb.toNat ∧ 3 < 4 ∧ 3 < zeroContext.nb.toNat ∧
      10 ≤ zeroContext.nr.toNat := by decide

theorem witness_RoundsAreTheirCompositions :
    zeroContext.Legal ∧ (loadState (elevens 16) 4).length = zeroContext.nb.toNat ∧ 10 ≤ zeroContext.nr.toNat := by decide

theorem witness_BlockFunctionsRunTheRoundsInOrder :
    zeroContext.Legal ∧ (elevens 16).length = 4 * zeroContext.nb.toNat := by decide

theorem witness_SubstitutionCommutesWithRowRotation : LegalWords 6 ∧ (loadState (elevens 24) 6).length = 6 := by decide

theorem witness_DecryptionInvertsEncryption : zeroContext.Legal ∧ (elevens 16).length = 4 * zeroContext.nb.toNat := by decide

/-- Both blocks at the very end of `DBUF`. -/
theorem witness_EncEncryptsOneBlock :
    (ready 4080 4080 0).Ready ∧ (ready 4080 4080 0).src.toNat + 4 * (ready 4080 4080 0).ctx.nb.toNat ≤ 4096 ∧
      (ready 4080 4080 0).dst.toNat + 4 * (ready 4080 4080 0).ctx.nb.toNat ≤ 4096 := by decide

theorem witness_DecDecryptsOneBlock :
    (ready 4080 0 0).Ready ∧ (ready 4080 0 0).src.toNat + 4 * (ready 4080 0 0).ctx.nb.toNat ≤ 4096 ∧
      (ready 4080 0 0).dst.toNat + 4 * (ready 4080 0 0).ctx.nb.toNat ≤ 4096 := by decide

theorem witness_DecAfterEncRestoresTheBlock :
    (ready 0 4080 0).Ready ∧ (ready 0 4080 0).src.toNat + 4 * (ready 0 4080 0).ctx.nb.toNat ≤ 4096 ∧
      (ready 0 4080 0).dst.toNat + 4 * (ready 0 4080 0).ctx.nb.toNat ≤ 4096 := by decide

/-- The same input block read at two offsets, in states that differ otherwise. -/
theorem witness_BlockResultDependsOnContextAndInput :
    after (exec .enc (ready 0 64 0)) (fun t => t.err) = some 0 ∧
      after (exec .enc { ready 32 16 7 with err := 5 }) (fun t => t.err) = some 0 ∧
      (ready 0 64 0).ctx = { ready 32 16 7 with err := 5 }.ctx ∧
      memRead (ready 0 64 0).dbuf 0 16 = memRead { ready 32 16 7 with err := 5 }.dbuf 32 16 := by decide +kernel

theorem witness_CbceRunsItsBlocks :
    (ready 0 4048 48).Ready ∧ (ready 0 4048 48).len.toNat % (4 * (ready 0 4048 48).ctx.nb.toNat) = 0 ∧
      (ready 0 4048 48).src.toNat + (ready 0 4048 48).len.toNat ≤ 4096 ∧
      (ready 0 4048 48).dst.toNat + (ready 0 4048 48).len.toNat ≤ 4096 := by decide

/-- An output range that overlaps the input range harmfully is not shut out. -/
theorem witness_CbcdRunsItsBlocks :
    (ready 0 16 64).Ready ∧ (ready 0 16 64).len.toNat % (4 * (ready 0 16 64).ctx.nb.toNat) = 0 ∧
      (ready 0 16 64).src.toNat + (ready 0 16 64).len.toNat ≤ 4096 ∧
      (ready 0 16 64).dst.toNat + (ready 0 16 64).len.toNat ≤ 4096 := by decide

/-- In place; adjacent above; and one block with a harmful overlap. -/
theorem witness_CbceComputesCbcEncryption :
    (ready 0 0 4096).Ready ∧ (ready 0 0 4096).len.toNat % (4 * (ready 0 0 4096).ctx.nb.toNat) = 0 ∧
      (ready 0 0 4096).src.toNat + (ready 0 0 4096).len.toNat ≤ 4096 ∧
      (ready 0 0 4096).dst.toNat + (ready 0 0 4096).len.toNat ≤ 4096 ∧
      HarmlessOverlap (ready 0 0 4096) 4096 ∧ HarmlessOverlap (ready 0 32 32) 32 ∧
      ¬ HarmlessOverlap (ready 0 8 16) 16 ∧ (ready 0 8 16).len.toNat ≤ 4 * (ready 0 8 16).ctx.nb.toNat := by decide

theorem witness_CbcdComputesCbcDecryption :
    (ready 64 48 32).Ready ∧ (ready 64 48 32).len.toNat % (4 * (ready 64 48 32).ctx.nb.toNat) = 0 ∧
      (ready 64 48 32).src.toNat + (ready 64 48 32).len.toNat ≤ 4096 ∧
      (ready 64 48 32).dst.toNat + (ready 64 48 32).len.toNat ≤ 4096 ∧ HarmlessOverlap (ready 64 48 32) 32 := by decide

theorem witness_ChainedCommandsStream :
    (∃ cr, (.cbcd .cr1 : Instr) = .cbce cr ∨ (.cbcd .cr1 : Instr) = .cbcd cr) ∧ (ready 0 2048 0).Ready ∧
      16 % (4 * (ready 0 2048 0).ctx.nb.toNat) = 0 ∧ 2032 % (4 * (ready 0 2048 0).ctx.nb.toNat) = 0 ∧
      (ready 0 2048 0).src.toNat + (16 + 2032) ≤ 4096 ∧ (ready 0 2048 0).dst.toNat + (16 + 2032) ≤ 4096 :=
  ⟨⟨.cr1, .inr rfl⟩, by decide⟩

theorem witness_CbcDecryptionInvertsCbcEncryption :
    zeroContext.Legal ∧ (elevens 16).length = 4 * zeroContext.nb.toNat ∧ (elevens 48).length = 3 * (4 * zeroContext.nb.toNat) := by
  decide

theorem witness_DecryptedBlockNeedsTwoCiphertextBlocks :
    zeroContext.Legal ∧ (elevens 16).length = 4 * zeroContext.nb.toNat ∧
      (elevens 48).length = 3 * (4 * zeroContext.nb.toNat) ∧ 0 < 3 ∧ 2 < 3 := by decide

theorem witness_ZeroLengthChainedCommandChangesNothing :
    (∃ cr, (.cbce .cr1 : Instr) = .cbce cr ∨ (.cbce .cr1 : Instr) = .cbcd cr) ∧ (ready 4096 4096 0).Ready ∧
      (ready 4096 4096 0).len = 0 ∧ (ready 4096 4096 0).src.toNat ≤ 4096 ∧ (ready 4096 4096 0).dst.toNat ≤ 4096 :=
  ⟨⟨.cr1, .inl rfl⟩, by decide⟩

/-- One witness for each clause, at the boundary of its range. -/
theorem witness_ErrorsAreReportedInPriorityOrder :
    decode 0x20000001#32 = .illegal .reservedBits ∧
      ¬ (Config.LegalSize 128 ∧ Config.LegalSize 160) ∧
      (DataCommand .dec ∧ State.reset.ctx.keyed = false) ∧
      ((ready 0 0 17).Ready ∧ (ready 0 0 17).len.toNat % (4 * (ready 0 0 17).ctx.nb.toNat) ≠ 0) ∧
      ((ready 4081 0 0).Ready ∧ 4096 < (ready 4081 0 0).src.toNat + 4 * (ready 4081 0 0).ctx.nb.toNat) ∧
      ((ready 0 4097 0).Ready ∧ (ready 0 4097 0).len.toNat % (4 * (ready 0 4097 0).ctx.nb.toNat) = 0 ∧
        4096 < (ready 0 4097 0).dst.toNat + (ready 0 4097 0).len.toNat) :=
  ⟨by decide, by decide, ⟨fun _ _ h => (nomatch h), rfl⟩, by decide, by decide, by decide⟩

theorem witness_ErrorCodesHaveExactlyTheirCauses :
    exec .enc State.reset = .next { State.reset with cmd := 0x20000000#32, err := 2 } := by rfl

theorem witness_ErrorsArePrecise :
    after (exec .enc (ready 0 0 0)) (fun t => t.err) = some 0 ∧ after (exec .dec (ready 4081 0 0)) (fun t => t.err) = some 4 := by
  decide +kernel

theorem witness_OnlySetkeyAndResetChangeTheContext :
    after (step (offer (.write 0 0x10080080#32) State.reset)) (fun t => t.ctx.keyed) = some true := by decide +kernel

theorem witness_OnlyNamedCommandsAndTheHostChangeAChainingRegister :
    after (step (offer (.write 0 0x40000001#32) (ready 0 0 16))) (fun t => decide (t.cr .cr1 ≠ (ready 0 0 16).cr .cr1)) =
      some true := by decide +kernel

theorem witness_OnlyOutputRangesAndTheHostChangeDbuf :
    after (step (offer (.write 0 0x20000000#32) (ready 0 4080 0))) (fun t => decide (memGet t.dbuf 4095 ≠ 0)) = some true := by
  decide +kernel

theorem witness_NoCommandWritesTheOperandRegisters :
    after (exec (.setkey 128 128) State.reset) (fun t => t.err) = some 0 := by decide +kernel

theorem witness_AHostReadChangesNothingInTheEngine :
    (offer (.read 0x7FF) State.reset).port = .read 0x7FF :: [] ∧ (offer (.read 0x7FF) State.reset).busy = false := by decide

/-- The boundaries of the storing ranges. -/
theorem witness_AStoredWordIsReadBackAndNoOtherChanges :
    (offer (.write 0x7FF 5#32) State.reset).port = .write 0x7FF 5#32 :: [] ∧
      (offer (.write 0x7FF 5#32) State.reset).busy = false ∧ StoringIndex 0x7FF ∧ StoringIndex 0x400 ∧ StoringIndex 0x01F ∧
      StoringIndex 0x008 ∧ StoringIndex 0x002 ∧ StoringIndex 0x004 ∧ 0x000 ≠ 0x7FF := by decide

theorem witness_CmdHoldsTheLastWordWritten :
    (offer (.write 0 0xABCDEF01#32) State.reset).port = .write 0x000 0xABCDEF01#32 :: [] ∧
      after (step (offer (.write 0 0xABCDEF01#32) State.reset)) (hostRead 0) = some 0xABCDEF01#32 := by decide +kernel

theorem witness_HostWordsPackBytesBigEndian : 7 < 8 ∧ 1023 < 1024 ∧ 3 < 4 := by decide

/-- The boundaries of the reserved and the read-only ranges. -/
theorem witness_ReservedAndReadOnlyIndexesIgnoreWrites :
    (ReservedIndex 0x006 ∧ ReservedIndex 0x007 ∧ ReservedIndex 0x020 ∧ ReservedIndex 0x07F ∧ ReservedIndex 0x0F8 ∧
      ReservedIndex 0x3FF ∧ ReservedIndex 0x800) ∧
      (ReadOnlyIndex 0x001 ∧ ReadOnlyIndex 0x005 ∧ ReadOnlyIndex 0x080 ∧ ReadOnlyIndex 0x0F7) ∧
      (offer (.write 0x0F7 1#32) State.reset).port = .write 0x0F7 1#32 :: [] ∧
      (offer (.write 0x0F7 1#32) State.reset).busy = false :=
  ⟨by decide, by decide, rfl, rfl⟩

/-- Its last clause: a command that changes `ERR`. -/
theorem witness_OnlyCommandsAndResetChangeErr :
    after (step (offer (.write 0 0#32) State.reset)) (fun t => decide (t.err ≠ State.reset.err)) = some true := by
  decide +kernel

theorem countingKey16_ok : (keyedContext (countingKey 16) 4 4).Ok := by
  have h4 : LegalWords 4 := .inl rfl
  refine ⟨fun h => (nomatch h), fun _ => ⟨keyedContext_legal _ h4 h4, countingKey 16, ?_, ?_⟩⟩
  · rw [keyedContext_nk _ 4 h4]; decide
  · rw [keyedContext_nk _ 4 h4, keyedContext_nb _ 4 h4]; simp only [keyedContext]

theorem witness_TheScheduleWindowEndsAtTheScheduleLength :
    (keyedState (countingKey 16) 4 4 [] 0 0 0).ctx.Ok ∧ State.reset.ctx.Ok ∧ 119 < 120 ∧ State.reset.ctx.keyed = false :=
  ⟨countingKey16_ok, ⟨fun _ => rfl, fun h => (nomatch h)⟩, by decide, rfl⟩

/-- A draw with bytes at both ends of `DBUF`. -/
def someDraw : ResetDraw :=
  { keyin := bufOf (elevens 32), cr0 := bufOf (elevens 4), cr1 := bufOf [], dbuf := 0x5A#8 :: List.replicate 4094 0 ++ [0xC3#8] }

theorem witness_AResetLeavesTheSpecifiedValues :
    (offer (.reset someDraw) (ready 1 2 3)).port = .reset someDraw :: [] ∧ (ready 1 2 3).work.fsm = .idle ∧
      someDraw.dbuf.length = 4096 :=
  ⟨rfl, rfl, by simp only [someDraw, List.length_append, List.length_cons, List.length_replicate, List.length_nil]⟩

/-- A keyed state in whose `ENC`, 16 transitions on, the block is stored and not yet counted; and, one transition later, counted. -/
theorem witness_AResetDuringACommandKeepsWhatItWrote :
    (keyedState (countingKey 16) 4 4 [] 0 16 0).ctx.Ok ∧
      (keyedState (countingKey 16) 4 4 [] 0 16 0).work.fsm = .idle ∧
      (keyedState (countingKey 16) 4 4 [] 0 16 0).busy = false ∧
      after (ticks 16 (startCommand 0x20000000#32 (keyedState (countingKey 16) 4 4 [] 0 16 0)))
        (fun u => (u.work.fsm, blocksStored u * blockBytes u.ctx)) = some (.bChain, 16) ∧
      after (ticks 17 (startCommand 0x20000000#32 (keyedState (countingKey 16) 4 4 [] 0 16 0)))
        (fun u => (u.work.fsm, blocksStored u * blockBytes u.ctx)) = some (.done, 16) :=
  ⟨countingKey16_ok, rfl, rfl, by decide +kernel, by decide +kernel⟩

/-- For its clause on the chaining register: the first of two blocks of a `CBCE` is done, and `CR[1]` has changed. -/
theorem witness_AResetDuringAChainedCommand :
    after (ticks 17 (startCommand 0x40000001#32 (ready 0 64 32)))
      (fun u => (u.work.fsm, chainWritten u .cr1, chainWritten u .cr0, decide (u.cr .cr1 ≠ (ready 0 64 32).cr .cr1))) =
      some (.bFetch, true, false, true) := by decide +kernel

theorem witness_TheKeySetupProcedureKeysTheContext :
    State.reset.busy = false ∧ (Config.LegalSize 256 ∧ Config.LegalSize 192) ∧ (countingKey 32).length = 256 / 8 ∧
      ¬ (Config.LegalSize 128 ∧ Config.LegalSize 4095) ∧ ¬ (Config.LegalSize 4096 ∧ Config.LegalSize 128) ∧ 4096 ≤ 4096 := by
  decide

theorem witness_TheBlockProcedureReturnsTheBlock :
    (ready 0 0 0).busy = false ∧ 4080 % 4 = 0 ∧ (ready 0 0 0).Ready ∧
      (elevens 16).length = 4 * (ready 0 0 0).ctx.nb.toNat ∧ 4080 + 4 * (ready 0 0 0).ctx.nb.toNat ≤ 4096 ∧
      State.reset.ctx.keyed = false ∧ 4080 + (elevens 16).length ≤ 4096 := by decide

/-- In place over three blocks with an initialisation vector; one block with a harmful overlap; and a bad length. -/
theorem witness_TheChainedProcedureReturnsTheMessage :
    (ready 0 0 0).busy = false ∧ (ready 0 0 0).Ready ∧ (elevens 16).length = 4 * (ready 0 0 0).ctx.nb.toNat ∧ 4048 % 4 = 0 ∧
      4048 + (elevens 48).length ≤ 4096 ∧ (elevens 48).length % (4 * (ready 0 0 0).ctx.nb.toNat) = 0 ∧ 4048 ≤ 4048 ∧
      (elevens 16).length ≤ 4 * (ready 0 0 0).ctx.nb.toNat ∧ (elevens 17).length % (4 * (ready 0 0 0).ctx.nb.toNat) ≠ 0 := by
  decide

/-- A keyed state of the invariant, with a command to come that runs. -/
theorem witness_EveryStepKeepsTheInvariant :
    (offer (.write 0 0x20000000#32) (keyedState (countingKey 16) 4 4 [1, 2, 3] 0 16 0)).Inv ∧
      after (step (offer (.write 0 0x20000000#32) (keyedState (countingKey 16) 4 4 [1, 2, 3] 0 16 0))) (fun t => t.err) =
        some 0 :=
  ⟨⟨countingKey16_ok, by decide, rfl, rfl, by decide +kernel⟩, by decide +kernel⟩

theorem witness_EveryAccessCompletes : (offer (.read 0x900) (keyedState (countingKey 16) 4 4 [] 0 0 0)).Inv :=
  ⟨countingKey16_ok, by decide, rfl, rfl, rfl⟩

theorem witness_TheStateMachineRefinesTheCommands :
    (keyedState (countingKey 16) 4 4 [] 0 16 32).ctx.Ok ∧ (keyedState (countingKey 16) 4 4 [] 0 16 32).work.fsm = .idle ∧
      (keyedState (countingKey 16) 4 4 [] 0 16 32).busy = false :=
  ⟨countingKey16_ok, rfl, rfl⟩

theorem witness_BusyMeansNotIdle :
    ((startCommand 0x20000000#32 State.reset).busy = true ↔ (startCommand 0x20000000#32 State.reset).work.fsm ≠ .idle) ∧
      after (cycle (startCommand 0x20000000#32 State.reset)) (fun t => t.work.fsm) = some .done := by decide +kernel

/-- Reached from reset by a `CMD` write and two transitions: in the middle of the key expansion. -/
theorem witness_TheScheduleIsNeverPartiallyValid :
    after (ticks 2 (startCommand 0x10080080#32 State.reset)) (fun t => t.work.fsm) = some .ksStep ∧
      State.reset.ScheduleWhole ∧ after (cycle State.reset) (fun t => t.work.fsm) = some .idle :=
  ⟨by decide +kernel, ⟨fun h => (nomatch h), fun h => (nomatch h), fun h => (nomatch h)⟩, by decide⟩

theorem witness_OnlyStatusMayBeReadWhileBusy :
    (offer (.read 1) (startCommand 0x20000000#32 State.reset)).busy = true ∧
      (offer (.read 1) (startCommand 0x20000000#32 State.reset)).port = .read 0x001 :: [] ∧
      (offer (.read 2) (startCommand 0x20000000#32 State.reset)).port = .read 0x002 :: [] ∧ 0x002 ≠ 0x001 ∧
      (offer (.write 2 0#32) (startCommand 0x20000000#32 State.reset)).port = .write 0x002 0#32 :: [] := by decide

end Sys2Proof.Tests
end

section
/-! The words of commands and the fields of the read-only views (30 R92 to R96, 10 R31, R32). -/

namespace Sys2Proof

/-! ### Command words -/

/-- A word is its `op` and `rsvB` fields (30 R93). -/
theorem fieldOp_append_fieldRsvB (w : Word) : fieldOp w ++ fieldRsvB w = w := by
  rw [fieldOp, fieldRsvB, BitVec.extractLsb'_append_extractLsb'_eq_extractLsb' (by rfl)]
  exact BitVec.extractLsb'_eq_self

/-- A word is its four format A fields (30 R92). -/
theorem fieldOp_append_fieldKbits (w : Word) : fieldOp w ++ fieldRsvK w ++ fieldBbits w ++ fieldKbits w = w := by
  rw [fieldOp, fieldRsvK, fieldBbits, fieldKbits, BitVec.extractLsb'_append_extractLsb'_eq_extractLsb' (by rfl),
    BitVec.extractLsb'_append_extractLsb'_eq_extractLsb' (by rfl), BitVec.extractLsb'_append_extractLsb'_eq_extractLsb' (by rfl)]
  exact BitVec.extractLsb'_eq_self

theorem crBit_fieldCr (w : Word) : crBit (fieldCr w) = w.extractLsb' 0 1 := by
  apply BitVec.eq_of_getLsbD_eq
  intro i hi
  obtain rfl : i = 0 := by omega
  rw [BitVec.getLsbD_extractLsb', fieldCr]
  cases w.getLsbD 0 <;> rfl

/-- A word is its three format C fields (30 R94). -/
theorem fieldOp_append_fieldCr (w : Word) : fieldOp w ++ fieldRsvC w ++ crBit (fieldCr w) = w := by
  rw [crBit_fieldCr, fieldOp, fieldRsvC, BitVec.extractLsb'_append_extractLsb'_eq_extractLsb' (by rfl),
    BitVec.extractLsb'_append_extractLsb'_eq_extractLsb' (by rfl)]
  exact BitVec.extractLsb'_eq_self

/-- Everything a word that decodes to a command can be: the row of the command in the opcode table (30 R96, R103). -/
theorem decode_cases {w : Word} {i : Instr} (h : decode w = .command i) :
    (fieldOp w = 0x1#4 ∧ fieldRsvK w = 0 ∧ i = .setkey (fieldKbits w).toNat (fieldBbits w).toNat) ∨
      (fieldOp w = 0x2#4 ∧ fieldRsvB w = 0 ∧ i = .enc) ∨ (fieldOp w = 0x3#4 ∧ fieldRsvB w = 0 ∧ i = .dec) ∨
      (fieldOp w = 0x4#4 ∧ fieldRsvC w = 0 ∧ i = .cbce (fieldCr w)) ∨
      (fieldOp w = 0x5#4 ∧ fieldRsvC w = 0 ∧ i = .cbcd (fieldCr w)) := by
  unfold decode at h
  split_ifs at h <;> cases h <;> simp [*]

/-- A word that decodes to a command is that command's own word. -/
theorem encode_of_decode {w : Word} {i : Instr} (h : decode w = .command i) : encode i = w := by
  rcases decode_cases h with ⟨ho, hr, rfl⟩ | ⟨ho, hr, rfl⟩ | ⟨ho, hr, rfl⟩ | ⟨ho, hr, rfl⟩ | ⟨ho, hr, rfl⟩
  · conv_rhs => rw [← fieldOp_append_fieldKbits w, ho, hr]
    simp [encode]
  · conv_rhs => rw [← fieldOp_append_fieldRsvB w, ho, hr]
    rfl
  · conv_rhs => rw [← fieldOp_append_fieldRsvB w, ho, hr]
    rfl
  · conv_rhs => rw [← fieldOp_append_fieldCr w, ho, hr]
    rfl
  · conv_rhs => rw [← fieldOp_append_fieldCr w, ho, hr]
    rfl

/-- The operands of a decoded `SETKEY` are the fields of its word (30 R95). -/
theorem decode_setkey {w : Word} {kbits bbits : Nat} (h : decode w = .command (.setkey kbits bbits)) :
    kbits = (fieldKbits w).toNat ∧ bbits = (fieldBbits w).toNat := by
  rcases decode_cases h with ⟨-, -, hi⟩ | ⟨-, -, hi⟩ | ⟨-, -, hi⟩ | ⟨-, -, hi⟩ | ⟨-, -, hi⟩ <;> cases hi
  exact ⟨rfl, rfl⟩

end Sys2Proof

namespace Sys2Proof.Machine

/-! ### The fields of the read-only views -/

section Views
open BitVec (extractLsb'_append_eq_of_le extractLsb'_append_eq_of_add_le extractLsb'_eq_self getLsbD_append)

@[simp] theorem flagBit_getLsbD_zero (b : Bool) : (flagBit b).getLsbD 0 = b := by cases b <;> rfl

theorem statusWord_busy (s : State) : (statusWord s).getLsbD 0 = s.busy := by
  rw [statusWord, getLsbD_append, if_pos (by decide), flagBit_getLsbD_zero]

theorem statusWord_keyed (s : State) : (statusWord s).getLsbD 1 = s.ctx.keyed := by
  rw [statusWord, getLsbD_append, if_neg (by decide), getLsbD_append, if_pos (by decide), flagBit_getLsbD_zero]

theorem statusWord_err (s : State) : (statusWord s).extractLsb' 4 4 = s.err := by
  rw [statusWord, extractLsb'_append_eq_of_le (by decide), extractLsb'_append_eq_of_le (by decide),
    extractLsb'_append_eq_of_le (by decide), extractLsb'_append_eq_of_add_le (by decide)]
  exact extractLsb'_eq_self

/-- The bits of `STATUS` that no flag has are 0 (10 R31). -/
theorem statusWord_reserved (s : State) : (statusWord s).extractLsb' 2 2 = 0 ∧ (statusWord s).extractLsb' 8 24 = 0 := by
  constructor
  · rw [statusWord, extractLsb'_append_eq_of_le (by decide), extractLsb'_append_eq_of_le (by decide),
      extractLsb'_append_eq_of_add_le (by decide)]
    rfl
  · rw [statusWord, extractLsb'_append_eq_of_le (by decide), extractLsb'_append_eq_of_le (by decide),
      extractLsb'_append_eq_of_le (by decide), extractLsb'_append_eq_of_le (by decide)]
    rfl

theorem cfgWord_nb (s : State) : (cfgWord s).extractLsb' 0 4 = s.ctx.nb := by
  rw [cfgWord, extractLsb'_append_eq_of_add_le (by decide), extractLsb'_eq_self]

theorem cfgWord_nk (s : State) : (cfgWord s).extractLsb' 4 4 = s.ctx.nk := by
  rw [cfgWord, extractLsb'_append_eq_of_le (by decide), extractLsb'_append_eq_of_add_le (by decide)]
  exact extractLsb'_eq_self

theorem cfgWord_nr (s : State) : (cfgWord s).extractLsb' 8 4 = s.ctx.nr := by
  rw [cfgWord, extractLsb'_append_eq_of_le (by decide), extractLsb'_append_eq_of_le (by decide),
    extractLsb'_append_eq_of_add_le (by decide)]
  exact extractLsb'_eq_self

theorem cfgWord_rklen (s : State) : (cfgWord s).extractLsb' 16 7 = s.ctx.rklen := by
  rw [cfgWord, extractLsb'_append_eq_of_le (by decide), extractLsb'_append_eq_of_le (by decide),
    extractLsb'_append_eq_of_le (by decide), extractLsb'_append_eq_of_le (by decide),
    extractLsb'_append_eq_of_add_le (by decide)]
  exact extractLsb'_eq_self

/-- The bits of `CFG` that no size has are 0 (10 R32). -/
theorem cfgWord_reserved (s : State) : (cfgWord s).extractLsb' 12 4 = 0 ∧ (cfgWord s).extractLsb' 23 9 = 0 := by
  constructor
  · rw [cfgWord, extractLsb'_append_eq_of_le (by decide), extractLsb'_append_eq_of_le (by decide),
      extractLsb'_append_eq_of_le (by decide), extractLsb'_append_eq_of_add_le (by decide)]
    rfl
  · rw [cfgWord, extractLsb'_append_eq_of_le (by decide), extractLsb'_append_eq_of_le (by decide),
      extractLsb'_append_eq_of_le (by decide), extractLsb'_append_eq_of_le (by decide),
      extractLsb'_append_eq_of_le (by decide)]
    rfl

end Views

/-- Settles O45, field by field: the parts of a word below a field are dropped one by one. -/
theorem statusAndCfgShowTheirFields : Obligations.StatusAndCfgShowTheirFields := fun s =>
  ⟨⟨statusWord_busy s, statusWord_keyed s, (statusWord_reserved s).1, statusWord_err s, (statusWord_reserved s).2⟩,
    cfgWord_nb s, cfgWord_nk s, cfgWord_nr s, (cfgWord_reserved s).1, cfgWord_rklen s, (cfgWord_reserved s).2⟩

end Sys2Proof.Machine
end

section
/-! The commands: what each can do, said once, and from it what each register can undergo. -/

namespace Sys2Proof.Machine

/-! ### What a command can do -/

/-- What a command without an error does to the state that holds its word in `CMD`: the context for `SETKEY` (41 R158), the
output range, and for a chained command its register, for the others (43 R202, R203, 44 R218, R220). -/
def commandEffect (i : Instr) (s : State) : State :=
  match i with
  | .setkey kbits bbits =>
    s.setCtx (keyedContext (keyBytes s (wordsOfBits kbits)) (wordsOfBits kbits) (wordsOfBits bbits))
  | .enc => transformBlock encryptBlock s
  | .dec => transformBlock decryptBlock s
  | .cbce cr => runBlocks (cbceBlock cr) (blockCount s) s
  | .cbcd cr => runBlocks (cbcdBlock cr) (blockCount s) s

/-- `ENC` and `DEC` end with the first error of 60 R287, or write their block. -/
theorem blockCommand_answer {f : Context → List Byte → List Byte} {s t : State} (h : blockCommand f s = .next t) :
    (∃ e, dataError false (blockBytes s.ctx) s = some e ∧ t = s.finish e) ∨
      (dataError false (blockBytes s.ctx) s = none ∧ s.ctx.Legal ∧ t = (transformBlock f s).finish .ok) := by
  rcases blockCommand_cases h with ⟨hk, rfl⟩ | ⟨⟨hk, -⟩, hr, rfl⟩ | ⟨⟨hk, hl⟩, hr, rfl⟩
  · exact .inl ⟨.notKeyed, by simp [dataError, hk], rfl⟩
  · exact .inl ⟨.addressRange, by simp [dataError, hk, hr], rfl⟩
  · exact .inr ⟨by simp [dataError, hk, hr], hl, rfl⟩

/-- `CBCE` and `CBCD` end with the first error of 60 R287, or run their blocks. -/
theorem chainedCommand_answer {f : Nat → State → State} {s t : State} (h : chainedCommand f s = .next t) :
    (∃ e, dataError true s.len.toNat s = some e ∧ t = s.finish e) ∨
      (dataError true s.len.toNat s = none ∧ s.ctx.Legal ∧ t = (runBlocks f (blockCount s) s).finish .ok) := by
  rcases chainedCommand_cases h with ⟨hk, rfl⟩ | ⟨⟨hk, -⟩, hb, rfl⟩ | ⟨⟨hk, -⟩, hb, hr, rfl⟩ | ⟨⟨hk, hl⟩, hb, hr, rfl⟩
  · exact .inl ⟨.notKeyed, by simp [dataError, hk], rfl⟩
  · exact .inl ⟨.invalidLength, by simp [dataError, hk, hb], rfl⟩
  · exact .inl ⟨.addressRange, by simp [dataError, hk, hb, hr], rfl⟩
  · exact .inr ⟨by simp [dataError, hk, hb, hr], hl, rfl⟩

/-- `SETKEY` ends with `InvalidParameter`, or replaces the context. -/
theorem execSetkey_answer {kbits bbits : Nat} {s t : State} (h : execSetkey kbits bbits s = .next t) :
    (∃ e, firstError (.setkey kbits bbits) s = some e ∧ t = (s.setCmd (encode (.setkey kbits bbits))).finish e) ∨
      (firstError (.setkey kbits bbits) s = none ∧
        t = (commandEffect (.setkey kbits bbits) (s.setCmd (encode (.setkey kbits bbits)))).finish .ok) := by
  by_cases hl : Config.LegalSize kbits ∧ Config.LegalSize bbits
  · rw [execSetkey_legal hl.1 hl.2] at h
    exact .inr ⟨if_pos hl, (Host.Outcome.next.inj h).symm⟩
  · rw [execSetkey_illegal hl] at h
    exact .inl ⟨.invalidParameter, if_neg hl, (Host.Outcome.next.inj h).symm⟩

/-- Everything a command can do: it ends with its first error and changes nothing but `CMD`, `ERR` and `BUSY` (60 R286), or it
passes every check and has its effect. -/
theorem exec_cases {i : Instr} {s t : State} (h : exec i s = .next t) :
    (∃ e, firstError i s = some e ∧ t = (s.setCmd (encode i)).finish e) ∨
      (firstError i s = none ∧ (DataCommand i → s.ctx.Legal) ∧
        t = (commandEffect i (s.setCmd (encode i))).finish .ok) := by
  cases i with
  | setkey kbits bbits =>
    rcases execSetkey_answer h with he | ⟨hn, ht⟩
    · exact .inl he
    · exact .inr ⟨hn, fun hd => absurd rfl (hd kbits bbits), ht⟩
  | enc => exact (blockCommand_answer h).imp_right fun ⟨hn, hl, ht⟩ => ⟨hn, fun _ => hl, ht⟩
  | dec => exact (blockCommand_answer h).imp_right fun ⟨hn, hl, ht⟩ => ⟨hn, fun _ => hl, ht⟩
  | cbce cr => exact (chainedCommand_answer h).imp_right fun ⟨hn, hl, ht⟩ => ⟨hn, fun _ => hl, ht⟩
  | cbcd cr => exact (chainedCommand_answer h).imp_right fun ⟨hn, hl, ht⟩ => ⟨hn, fun _ => hl, ht⟩

theorem errCode_le (e : ErrorCode) : (errCode e).toNat ≤ 5 := by cases e <;> decide

theorem firstError_setkey_none {kbits bbits : Nat} {s : State} (h : firstError (.setkey kbits bbits) s = none) :
    Config.LegalSize kbits ∧ Config.LegalSize bbits := by
  by_contra hl
  exact absurd h (by simp [firstError, if_neg hl])

theorem commandEffect_operands (i : Instr) (s : State) : OperandsKept s (commandEffect i s) := by
  cases i <;> simp [commandEffect, OperandsKept]

@[simp] theorem commandEffect_cmd (i : Instr) (s : State) : (commandEffect i s).cmd = s.cmd := by
  cases i <;> simp [commandEffect]

@[simp] theorem commandEffect_work (i : Instr) (s : State) : (commandEffect i s).work = s.work := by
  cases i <;> simp [commandEffect]

theorem commandEffect_ctx {i : Instr} (hi : DataCommand i) (s : State) : (commandEffect i s).ctx = s.ctx := by
  cases i with
  | setkey kbits bbits => exact absurd rfl (hi kbits bbits)
  | _ => simp [commandEffect]

/-! ### What a successful command writes -/

/-- What each block keeps, all of them keep. -/
theorem runBlocks_keeps {α : Type} (p : State → α) {f : Nat → State → State} (hf : ∀ i s, p (f i s) = p s) (n : Nat)
    (s : State) : p (runBlocks f n s) = p s := by
  induction n with
  | zero => rfl
  | succ n ih => rw [runBlocks, hf, ih]

theorem cbceBlock_cr_other {cr cr' : ChainReg} (h : cr' ≠ cr) (i : Nat) (s : State) :
    (cbceBlock cr i s).cr cr' = s.cr cr' := by
  simp [cbceBlock, setChainValue_cr_other _ h]

theorem cbcdBlock_cr_other {cr cr' : ChainReg} (h : cr' ≠ cr) (i : Nat) (s : State) :
    (cbcdBlock cr i s).cr cr' = s.cr cr' := by
  simp [cbcdBlock, setChainValue_cr_other _ h]

/-- Only the chained command that names a chaining register writes it (44 R225). -/
theorem commandEffect_cr {i : Instr} {cr : ChainReg} (he : i ≠ .cbce cr) (hd : i ≠ .cbcd cr) (s : State) :
    (commandEffect i s).cr cr = s.cr cr := by
  cases i with
  | setkey kbits bbits => exact State.setCtx_cr _ _ _
  | enc => exact State.setDbuf_cr _ _ _
  | dec => exact State.setDbuf_cr _ _ _
  | cbce n => exact runBlocks_keeps (State.cr · cr) (cbceBlock_cr_other fun h => he (h ▸ rfl)) _ s
  | cbcd n => exact runBlocks_keeps (State.cr · cr) (cbcdBlock_cr_other fun h => hd (h ▸ rfl)) _ s

/-- Two writes at adjacent ranges are one. -/
theorem memWrite_append (m : List Host.Cell) (a : Nat) (v w : List Byte) :
    memWrite m a (v ++ w) = memWrite (memWrite m a v) (a + v.length) w := by
  induction v generalizing m a with
  | nil => rfl
  | cons b v ih => simp [memWrite, ih, Nat.add_assoc, Nat.add_comm 1]

/-- Each call of a block step keeps the context and `DST`, and in a context of 10 R25 it writes one block of `BB` bytes. -/
structure WritesBlocks (f : Nat → State → State) : Prop where
  ctx : ∀ i s, (f i s).ctx = s.ctx
  dst : ∀ i s, (f i s).dst = s.dst
  dbuf : ∀ i s, s.ctx.Legal → ∃ v, v.length = blockBytes s.ctx ∧ (f i s).dbuf = memWrite s.dbuf (dstBlock s i) v

theorem chainValue_length {s : State} (h : s.ctx.Legal) (cr : ChainReg) : (chainValue s cr).length = blockBytes s.ctx :=
  bufTake_length _ (by have := blockBytes_legal h; omega)

theorem cbceBlock_writesBlocks (cr : ChainReg) : WritesBlocks (cbceBlock cr) where
  ctx := cbceBlock_ctx cr
  dst := cbceBlock_dst cr
  dbuf i s h := ⟨_, encryptBlock_length h _, by rw [cbceBlock, setChainValue_dbuf, State.setDbuf_dbuf]⟩

theorem cbcdBlock_writesBlocks (cr : ChainReg) : WritesBlocks (cbcdBlock cr) where
  ctx := cbcdBlock_ctx cr
  dst := cbcdBlock_dst cr
  dbuf i s h :=
    ⟨xorBytes (decryptBlock s.ctx (memRead s.dbuf (srcBlock s i) (blockBytes s.ctx))) (chainValue s cr),
      by simp [xorBytes, decryptBlock_length h, chainValue_length h],
      by rw [cbcdBlock, setChainValue_dbuf, State.setDbuf_dbuf]⟩

/-- The blocks of a chained command are written one after another, so together they are one write from `DST` on. -/
theorem runBlocks_dbuf {f : Nat → State → State} (hf : WritesBlocks f) {s : State} (h : s.ctx.Legal) (n : Nat) :
    ∃ v, v.length = n * blockBytes s.ctx ∧ (runBlocks f n s).dbuf = memWrite s.dbuf s.dst.toNat v := by
  induction n with
  | zero => exact ⟨[], by simp, rfl⟩
  | succ n ih =>
    obtain ⟨v, hv, hm⟩ := ih
    have hctx : (runBlocks f n s).ctx = s.ctx := runBlocks_keeps State.ctx hf.ctx n s
    have hdst : (runBlocks f n s).dst = s.dst := runBlocks_keeps State.dst hf.dst n s
    obtain ⟨w, hw, hb⟩ := hf.dbuf n (runBlocks f n s) (hctx ▸ h)
    refine ⟨v ++ w, ?_, ?_⟩
    · rw [List.length_append, hv, hw, hctx, Nat.succ_mul]
    · rw [runBlocks, hb, hm, dstBlock, hctx, hdst, memWrite_append, hv]

/-- How many bytes of `DBUF` a successful command writes, from `DST` on (20 R65, R66). -/
def outputLength (i : Instr) (s : State) : Nat :=
  match i with
  | .setkey _ _ => 0
  | .enc => blockBytes s.ctx
  | .dec => blockBytes s.ctx
  | .cbce _ => s.len.toNat
  | .cbcd _ => s.len.toNat

/-- A data command that passed its checks has its whole output range inside `DBUF` (20 R66), and a chained one has whole
blocks only (44 R219). -/
theorem dataError_none {chained : Bool} {n : Nat} {s : State} (h : dataError chained n s = none) :
    s.dst.toNat + n ≤ Config.dbufBytes ∧ (chained = true → blockCount s * blockBytes s.ctx = s.len.toNat) := by
  unfold dataError at h
  split_ifs at h with _ hb hr
  refine ⟨by omega, fun hc => Nat.div_mul_cancel (Nat.dvd_of_mod_eq_zero ?_)⟩
  exact not_not.1 fun hn => hb ⟨hc, hn⟩

/-- A successful data command changes `DBUF` by one write of its output range. -/
theorem commandEffect_dbuf {i : Instr} {s : State} (hi : DataCommand i) (hn : firstError i s = none) (hl : s.ctx.Legal) :
    ∃ v, v.length = outputLength i s ∧ s.dst.toNat + outputLength i s ≤ Config.dbufBytes ∧
      (commandEffect i s).dbuf = memWrite s.dbuf s.dst.toNat v := by
  have hblock : dstBlock s 0 = s.dst.toNat := by simp [dstBlock]
  cases i with
  | setkey kbits bbits => exact absurd rfl (hi kbits bbits)
  | enc => exact ⟨_, encryptBlock_length hl _, (dataError_none hn).1, by rw [← hblock]; rfl⟩
  | dec => exact ⟨_, decryptBlock_length hl _, (dataError_none hn).1, by rw [← hblock]; rfl⟩
  | cbce cr =>
    obtain ⟨hin, hlen⟩ := dataError_none hn
    obtain ⟨v, hv, hm⟩ := runBlocks_dbuf (cbceBlock_writesBlocks cr) hl (blockCount s)
    exact ⟨v, hv.trans (hlen rfl), hin, hm⟩
  | cbcd cr =>
    obtain ⟨hin, hlen⟩ := dataError_none hn
    obtain ⟨v, hv, hm⟩ := runBlocks_dbuf (cbcdBlock_writesBlocks cr) hl (blockCount s)
    exact ⟨v, hv.trans (hlen rfl), hin, hm⟩

/-! ### What a command can change, register by register -/

section Exec
variable {i : Instr} {s t : State}

theorem exec_operandsKept (h : exec i s = .next t) : OperandsKept s t := by
  rcases exec_cases h with ⟨e, -, rfl⟩ | ⟨-, -, rfl⟩
  · exact ⟨rfl, rfl, rfl, rfl, rfl, rfl⟩
  · exact commandEffect_operands i (s.setCmd (encode i))

theorem exec_cmd (h : exec i s = .next t) : t.cmd = encode i := by
  rcases exec_cases h with ⟨e, -, rfl⟩ | ⟨-, -, rfl⟩ <;> simp

theorem exec_busy (h : exec i s = .next t) : t.busy = false := by
  rcases exec_cases h with ⟨e, -, rfl⟩ | ⟨-, -, rfl⟩ <;> rfl

theorem exec_work (h : exec i s = .next t) : t.work = s.work := by
  rcases exec_cases h with ⟨e, -, rfl⟩ | ⟨-, -, rfl⟩ <;> simp

theorem exec_err_le (h : exec i s = .next t) : t.err.toNat ≤ 5 := by
  rcases exec_cases h with ⟨e, -, rfl⟩ | ⟨-, -, rfl⟩ <;> exact errCode_le _

/-- Only a successful `SETKEY` changes the context (10 R23, 41 R158). -/
theorem exec_ctx (h : exec i s = .next t) :
    t.ctx = s.ctx ∨ ∃ kbits bbits, i = .setkey kbits bbits ∧ Config.LegalSize kbits ∧ Config.LegalSize bbits ∧ t.err = 0 ∧
      t.ctx = keyedContext (keyBytes s (wordsOfBits kbits)) (wordsOfBits kbits) (wordsOfBits bbits) := by
  rcases exec_cases h with ⟨e, -, rfl⟩ | ⟨hn, -, rfl⟩
  · exact .inl rfl
  · cases i with
    | setkey kbits bbits =>
      have hl := firstError_setkey_none hn
      exact .inr ⟨kbits, bbits, rfl, hl.1, hl.2, rfl, rfl⟩
    | _ => exact .inl (by rw [State.finish_ctx, commandEffect_ctx (by simp [DataCommand]), State.setCmd_ctx])

/-- Only a successful chained command that names a chaining register changes it (10 R28, 44 R225). -/
theorem exec_cr (h : exec i s = .next t) (cr : ChainReg) :
    t.cr cr = s.cr cr ∨ ((i = .cbce cr ∨ i = .cbcd cr) ∧ t.err = 0) := by
  rcases exec_cases h with ⟨e, -, rfl⟩ | ⟨-, -, rfl⟩
  · exact .inl (by simp)
  · by_cases hi : i = .cbce cr ∨ i = .cbcd cr
    · exact .inr ⟨hi, rfl⟩
    · obtain ⟨he, hd⟩ := not_or.1 hi
      exact .inl (by rw [State.finish_cr, commandEffect_cr he hd, State.setCmd_cr])

/-- Only a successful data command changes `DBUF`, by one write of its output range, which lies inside (10 R34, 20 R66). -/
theorem exec_dbuf (h : exec i s = .next t) :
    t.dbuf = s.dbuf ∨ (DataCommand i ∧ t.err = 0 ∧ s.dst.toNat + outputLength i s ≤ Config.dbufBytes ∧
      ∃ v, v.length = outputLength i s ∧ t.dbuf = memWrite s.dbuf s.dst.toNat v) := by
  rcases exec_cases h with ⟨e, -, rfl⟩ | ⟨hn, hl, rfl⟩
  · exact .inl rfl
  · by_cases hi : DataCommand i
    · have hn' : firstError i (s.setCmd (encode i)) = none := hn
      obtain ⟨v, hv, hin, hm⟩ := commandEffect_dbuf hi hn' (hl hi)
      exact .inr ⟨hi, rfl, hin, v, hv, hm⟩
    · cases i with
      | setkey kbits bbits => exact .inl rfl
      | _ => exact absurd (by simp [DataCommand]) hi

end Exec

end Sys2Proof.Machine
end

section
/-! A step of the command level: the whole-machine rules, the invariant between commands, the reset. -/

namespace Sys2Proof.Machine

/-! ### What a storing write can change (45 R242) -/

theorem portMap_crW {wa j : Nat} {cr : ChainReg} (h : portMap wa = .crW cr j) :
    crWindow cr ≤ wa ∧ wa ≤ crWindow cr + 7 ∧ j = wa - crWindow cr := by
  simp only [portMap, ite_eq_iff, reduceCtorEq, PortReg.crW.injEq, and_false, false_or, or_false] at h
  cases cr <;> simp only [crWindow, reduceCtorEq, true_and, false_and, and_false, false_or, or_false] at h ⊢ <;> omega

theorem portMap_dbufW {wa k : Nat} (h : portMap wa = .dbufW k) : 0x400 ≤ wa ∧ wa ≤ 0x7FF ∧ k = wa - 0x400 := by
  simp only [portMap, ite_eq_iff, reduceCtorEq, PortReg.dbufW.injEq, and_false, false_or, or_false, Config.dbufBytes] at h
  omega

@[simp] theorem storeWrite_ctx (wa : Nat) (d : Word) (s : State) : (storeWrite wa d s).ctx = s.ctx := by
  unfold storeWrite
  split <;> simp

@[simp] theorem storeWrite_cmd (wa : Nat) (d : Word) (s : State) : (storeWrite wa d s).cmd = s.cmd := by
  unfold storeWrite
  split <;> simp

@[simp] theorem storeWrite_err (wa : Nat) (d : Word) (s : State) : (storeWrite wa d s).err = s.err := by
  unfold storeWrite
  split <;> simp

@[simp] theorem storeWrite_work (wa : Nat) (d : Word) (s : State) : (storeWrite wa d s).work = s.work := by
  unfold storeWrite
  split <;> simp

/-- A storing write changes a chaining register only by a write to its window (10 R37). -/
theorem storeWrite_cr (wa : Nat) (d : Word) (s : State) (cr : ChainReg) :
    (storeWrite wa d s).cr cr = s.cr cr ∨ (crWindow cr ≤ wa ∧ wa ≤ crWindow cr + 7) := by
  unfold storeWrite
  split
  case h_5 n j hp =>
    by_cases hn : cr = n
    · subst hn
      obtain ⟨hlo, hhi, -⟩ := portMap_crW hp
      exact .inr ⟨hlo, hhi⟩
    · exact .inl (State.setCr_cr_other s hn _)
  case h_6 => exact .inl (State.setDbuf_cr _ _ _)
  all_goals exact .inl (by cases cr <;> rfl)

/-- A storing write changes `DBUF` only by a write to its window, which writes the four bytes of one word inside (45 R248). -/
theorem storeWrite_dbuf (wa : Nat) (d : Word) (s : State) :
    (storeWrite wa d s).dbuf = s.dbuf ∨
      (0x400 ≤ wa ∧ wa ≤ 0x7FF ∧ (storeWrite wa d s).dbuf = memWrite s.dbuf (4 * (wa - 0x400)) (wordBytes d)) := by
  unfold storeWrite
  split
  case h_6 k hp =>
    obtain ⟨hlo, hhi, hk⟩ := portMap_dbufW hp
    exact .inr ⟨hlo, hhi, by rw [State.setDbuf_dbuf, hk]⟩
  all_goals exact .inl (by simp)

/-! ### Whole-machine rules -/

/-- Settles O39: both ends of a command, the error and the effect, keep the operand registers. -/
theorem noCommandWritesTheOperandRegisters : Obligations.NoCommandWritesTheOperandRegisters :=
  fun _ _ _ h => exec_operandsKept h

/-- Settles O42: a command leaves its own word in `CMD`, and that is the word it was decoded from. -/
theorem cmdHoldsTheLastWordWritten : Obligations.CmdHoldsTheLastWordWritten := by
  intro s t d rest hp h
  rcases step_cases h with ⟨hnil, -⟩ | ⟨e, rest', hcons, hcase⟩
  · simp [hp] at hnil
  · obtain ⟨rfl, rfl⟩ := List.cons.inj (hp.symm.trans hcons)
    rcases hcase with ⟨he, -⟩ | ⟨_, he, -⟩ | ⟨_, he, -⟩ | ⟨_, _, he, h0, -⟩ | ⟨_, i, he, -, hd, hx⟩ | ⟨_, _, he, -, -, rfl⟩ <;>
      cases he
    · exact absurd rfl h0
    · exact (exec_cmd hx).trans (encode_of_decode hd)
    · rfl

/-- Settles O36: of all a step can do, only `exec` of `SETKEY` and the reset write the context. -/
theorem onlySetkeyAndResetChangeTheContext : Obligations.OnlySetkeyAndResetChangeTheContext := by
  intro s t h
  rcases step_cases h with ⟨-, rfl⟩ | ⟨e, rest, hp, hcase⟩
  · exact .inl rfl
  · rcases hcase with ⟨-, rfl⟩ | ⟨draw, rfl, rfl⟩ | ⟨wa, -, rfl⟩ | ⟨wa, d, -, -, -, rfl⟩ | ⟨d, i, rfl, -, hd, hx⟩ |
      ⟨d, why, -, -, -, rfl⟩
    · exact .inl rfl
    · exact .inr (.inl ⟨draw, rest, hp, rfl, rfl, rfl⟩)
    · exact .inl rfl
    · exact .inl (storeWrite_ctx _ _ _)
    · rcases exec_ctx hx with hc | ⟨kbits, bbits, rfl, hk, hb, he, hc⟩
      · exact .inl hc
      · exact .inr (.inr ⟨d, rest, kbits, bbits, hp, hd, hk, hb, by rw [hc]; rfl, he⟩)
    · exact .inl rfl

/-- Settles O37: a chaining register is written by `exec` of the commands that name it, by a write to its window and by the
reset. -/
theorem onlyNamedCommandsAndTheHostChangeAChainingRegister :
    Obligations.OnlyNamedCommandsAndTheHostChangeAChainingRegister := by
  intro s t cr h
  have hrest (rest : List HostAccess) : ({ s with port := rest } : State).cr cr = s.cr cr := by cases cr <;> rfl
  rcases step_cases h with ⟨-, rfl⟩ | ⟨e, rest, hp, hcase⟩
  · exact .inl rfl
  · rcases hcase with ⟨-, rfl⟩ | ⟨draw, rfl, -⟩ | ⟨wa, -, rfl⟩ | ⟨wa, d, rfl, -, -, rfl⟩ | ⟨d, i, rfl, -, hd, hx⟩ |
      ⟨d, why, -, -, -, rfl⟩
    · exact .inl (hrest rest)
    · exact .inr (.inl ⟨draw, rest, hp⟩)
    · exact .inl (by cases cr <;> rfl)
    · rcases storeWrite_cr wa d { s with port := rest } cr with hc | hw
      · exact .inl (hc.trans (hrest rest))
      · exact .inr (.inr (.inl ⟨wa, d, rest, hp, by cases cr <;> exact hw⟩))
    · rcases exec_cr hx cr with hc | ⟨hi, he⟩
      · exact .inl (hc.trans (by cases cr <;> rfl))
      · have hnamed : decode d = .command (.cbce cr) ∨ decode d = .command (.cbcd cr) := by
          rcases hi with rfl | rfl
          · exact .inl hd
          · exact .inr hd
        exact .inr (.inr (.inr ⟨d, rest, hp, hnamed, he⟩))
    · exact .inl (by cases cr <;> rfl)

/-- The output range of a data command as the spec counts it: one block, or `LEN` bytes (20 R66). -/
theorem outputLength_dataCommand {i : Instr} (hi : DataCommand i) (s : State) :
    outputLength i s = if i = .enc ∨ i = .dec then 4 * s.ctx.nb.toNat else s.len.toNat := by
  cases i with
  | setkey kbits bbits => exact absurd rfl (hi kbits bbits)
  | _ => simp [outputLength, blockBytes]

/-- Settles O38: a byte that a step changes lies in the one range that the step writes, whether by a storing write or by a
command. -/
theorem onlyOutputRangesAndTheHostChangeDbuf : Obligations.OnlyOutputRangesAndTheHostChangeDbuf := by
  intro s t a h
  rcases step_cases h with ⟨-, rfl⟩ | ⟨e, rest, hp, hcase⟩
  · exact .inl rfl
  · rcases hcase with ⟨-, rfl⟩ | ⟨draw, rfl, -⟩ | ⟨wa, -, rfl⟩ | ⟨wa, d, rfl, -, -, rfl⟩ | ⟨d, i, rfl, -, hd, hx⟩ |
      ⟨d, why, -, -, -, rfl⟩
    · exact .inl rfl
    · exact .inr (.inl ⟨draw, rest, hp⟩)
    · exact .inl rfl
    · rcases storeWrite_dbuf wa d { s with port := rest } with hm | ⟨hlo, hhi, hm⟩
      · exact .inl (by rw [hm])
      · by_cases ha : 4 * (wa - 0x400) ≤ a ∧ a < 4 * (wa - 0x400) + 4
        · exact .inr (.inr (.inl ⟨wa, d, rest, hp, hlo, hhi, ha⟩))
        · exact .inl (by rw [hm, memGet_memWrite_outside _ _ _ (by rw [wordBytes_length]; omega)])
    · rcases exec_dbuf hx with hm | ⟨hi, he, hin, v, hv, hm⟩
      · exact .inl (by rw [hm]; rfl)
      · by_cases ha : s.dst.toNat ≤ a ∧ a < s.dst.toNat + outputLength i s
        · have hin' : s.dst.toNat + outputLength i s ≤ 4096 := hin
          exact .inr (.inr (.inr ⟨d, rest, i, hp, hd, hi, he, by omega, ha.1, outputLength_dataCommand hi s ▸ ha.2⟩))
        · have hout : a < s.dst.toNat ∨ s.dst.toNat + v.length ≤ a := by
            have hv' : v.length = outputLength i s := hv
            omega
          exact .inl (by rw [hm]; exact memGet_memWrite_outside _ _ _ hout)
    · exact .inl rfl

/-! ### The invariant between commands -/

theorem unkeyed_ok : Context.unkeyed.Ok := ⟨fun _ => rfl, fun h => nomatch h⟩

/-- The context that a successful `SETKEY` leaves is as 10 R25 says. -/
theorem keyedContext_ok {key : List Byte} {nk nb : Nat} (hk : LegalWords nk) (hb : LegalWords nb)
    (hlen : key.length = 4 * nk) : (keyedContext key nk nb).Ok := by
  refine ⟨fun h => (nomatch h), fun _ => ⟨keyedContext_legal key hk hb, key, ?_, ?_⟩⟩
  · rw [keyedContext_nk key nb hk, hlen]
  · rw [keyedContext_nk key nb hk, keyedContext_nb key nk hb]
    rfl

theorem keyBytes_length (s : State) {nk : Nat} (hk : LegalWords nk) : (keyBytes s nk).length = 4 * nk :=
  bufTake_length _ (by omega)

/-- No command breaks 10 R25. -/
theorem exec_ctx_ok {i : Instr} {s t : State} (h : exec i s = .next t) (hs : s.ctx.Ok) : t.ctx.Ok := by
  rcases exec_ctx h with hc | ⟨kbits, bbits, -, hk, hb, -, hc⟩
  · exact hc ▸ hs
  · exact hc ▸ keyedContext_ok (legalWords_of_legalSize hk) (legalWords_of_legalSize hb)
      (keyBytes_length s (legalWords_of_legalSize hk))

theorem exec_dbuf_wf {i : Instr} {s t : State} (h : exec i s = .next t) (hs : Memory.wf s.dbuf = true) :
    Memory.wf t.dbuf = true := by
  rcases exec_dbuf h with hm | ⟨-, -, hin, v, hv, hm⟩
  · exact hm ▸ hs
  · exact hm ▸ memWf_memWrite hs v (hv ▸ hin)

theorem storeWrite_dbuf_wf (wa : Nat) (d : Word) {s : State} (hs : Memory.wf s.dbuf = true) :
    Memory.wf (storeWrite wa d s).dbuf = true := by
  rcases storeWrite_dbuf wa d s with hm | ⟨hlo, hhi, hm⟩
  · exact hm ▸ hs
  · exact hm ▸ memWf_memWrite hs _ (by rw [wordBytes_length]; simp only [Config.dbufBytes]; omega)

theorem applyReset_inv (draw : ResetDraw) (s : State) : (applyReset draw s).Inv :=
  ⟨unkeyed_ok, Nat.zero_le 5, rfl, rfl, memWf_resetDbuf draw.dbuf s⟩

/-- Settles O48: the context is unkeyed and `DBUF` is what `memWf_resetDbuf` says. -/
theorem resetMeetsTheInvariant : Obligations.ResetMeetsTheInvariant :=
  ⟨⟨unkeyed_ok, by decide, rfl, rfl, memWf_reset⟩, applyReset_inv⟩

/-- Settles O49: the invariant is kept by each of the things a step can do (`step_cases`). -/
theorem everyStepKeepsTheInvariant : Obligations.EveryStepKeepsTheInvariant := by
  intro s t ⟨hctx, herr, hbusy, hfsm, hmem⟩ h
  rcases step_cases h with ⟨-, rfl⟩ | ⟨e, rest, -, hcase⟩
  · exact ⟨hctx, herr, hbusy, hfsm, hmem⟩
  · rcases hcase with ⟨-, rfl⟩ | ⟨draw, -, rfl⟩ | ⟨wa, -, rfl⟩ | ⟨wa, d, -, -, -, rfl⟩ | ⟨d, i, -, -, -, hx⟩ |
      ⟨d, why, -, -, -, rfl⟩
    · exact ⟨hctx, herr, hbusy, hfsm, hmem⟩
    · exact applyReset_inv draw _
    · exact ⟨hctx, herr, hbusy, hfsm, hmem⟩
    · exact ⟨(storeWrite_ctx ..).symm ▸ hctx, (storeWrite_err ..).symm ▸ herr, (storeWrite_busy ..).trans hbusy,
        (storeWrite_work ..).symm ▸ hfsm, storeWrite_dbuf_wf wa d hmem⟩
    · exact ⟨exec_ctx_ok hx hctx, exec_err_le hx, exec_busy hx, (exec_work hx).symm ▸ hfsm, exec_dbuf_wf hx hmem⟩
    · exact ⟨hctx, errCode_le .illegalCommand, rfl, hfsm, hmem⟩

theorem memRead_resetDbuf_idle {s : State} {drawn : List Byte} (h : s.work.fsm = .idle) (hlen : drawn.length = 4096) :
    memRead (resetDbuf drawn s) 0 4096 = drawn := by
  have hfull : drawn.take Config.dbufBytes = drawn := List.take_of_length_le hlen.le
  rw [resetDbuf_idle _ h, hfull, ← hlen]
  exact memRead_memWrite_same [] 0 drawn

/-- Settles O47: the drawn bytes are exactly the content asked for, since between commands nothing written has to stay. -/
theorem aResetLeavesTheSpecifiedValues : Obligations.AResetLeavesTheSpecifiedValues := by
  constructor
  · intro s draw rest hp
    refine ⟨applyReset draw { s with port := rest }, by rw [step, hp]; rfl, ?_⟩
    exact ⟨rfl, rfl, rfl, rfl, rfl, rfl, rfl, rfl, rfl, rfl, rfl, rfl, rfl⟩
  · intro s keyin cr0 cr1 dbuf rest hidle hlen
    exact ⟨⟨keyin, cr0, cr1, dbuf⟩, applyReset ⟨keyin, cr0, cr1, dbuf⟩ { s with port := rest }, rfl, rfl,
      resetCr_idle cr0 hidle .cr0, resetCr_idle cr1 hidle .cr1, memRead_resetDbuf_idle hidle hlen⟩

end Sys2Proof.Machine
end

section
/-! The control state machine (46): its transitions, said once, and the two invariants over them. -/

namespace Sys2Proof.Machine

/-! ### What the control state machine can do (46 R261 to R272) -/

/-- The states of the block loop, `B_FETCH` to `B_CHAIN` (46 R265 to R271). -/
def FsmState.InBlock (q : FsmState) : Prop :=
  q = .bFetch ∨ q = .bPre ∨ q = .bRound ∨ q = .bPost ∨ q = .bStore ∨ q = .bChain

/-- Everything `CHECK` can do: an illegal word or the first error goes to `DONE`, a command without an error goes on
(46 R262). -/
theorem fsmCheck_cases {s t : State} (h : fsmCheck s = .next t) :
    (∃ why, decode s.cmd = .illegal why ∧ t = (s.setErr .illegalCommand).goto .done) ∨
      ∃ i, decode s.cmd = .command i ∧
        ((∃ e, firstError i s = some e ∧ t = (s.setErr e).goto .done) ∨
          (firstError i s = none ∧ t = checkPassed i (s.setErr .ok))) := by
  unfold fsmCheck at h
  split at h
  · next why hd => exact .inl ⟨why, hd, (Host.Outcome.next.inj h).symm⟩
  · next i hd =>
    refine .inr ⟨i, hd, ?_⟩
    split at h
    · cases h
    · split at h
      · next e he => exact .inl ⟨e, he, (Host.Outcome.next.inj h).symm⟩
      · next hn => exact .inr ⟨hn, (Host.Outcome.next.inj h).symm⟩

@[simp] theorem fsmRound_ctx (s : State) : (fsmRound s).ctx = s.ctx := by unfold fsmRound; split <;> rfl
@[simp] theorem fsmRound_cmd (s : State) : (fsmRound s).cmd = s.cmd := by unfold fsmRound; split <;> rfl
@[simp] theorem fsmRound_busy (s : State) : (fsmRound s).busy = s.busy := by unfold fsmRound; split <;> rfl

/-- A round is followed by another or by `B_POST` (46 R267, R268). -/
theorem fsmRound_fsm (s : State) : (fsmRound s).work.fsm = .bRound ∨ (fsmRound s).work.fsm = .bPost := by
  unfold fsmRound
  split
  · exact ite_eq_or_eq .. |>.symm
  · exact ite_eq_or_eq .. |>.symm

@[simp] theorem fsmUpdateChain_ctx (s : State) : (fsmUpdateChain s).ctx = s.ctx := by
  unfold fsmUpdateChain
  split_ifs <;> simp
@[simp] theorem fsmUpdateChain_cmd (s : State) : (fsmUpdateChain s).cmd = s.cmd := by
  unfold fsmUpdateChain
  split_ifs <;> simp
@[simp] theorem fsmUpdateChain_busy (s : State) : (fsmUpdateChain s).busy = s.busy := by
  unfold fsmUpdateChain
  split_ifs <;> simp

/-- After a block comes the next one or `DONE` (46 R271). -/
theorem fsmChain_fsm (s : State) : (fsmChain s).work.fsm = .bFetch ∨ (fsmChain s).work.fsm = .done :=
  ite_eq_or_eq ..

/-- Everything a transition can do. Within the block loop it keeps the context, `CMD` and `BUSY`, and stays in the loop or
ends in `DONE`. -/
theorem tick_cases {s t : State} (h : tick s = .next t) :
    (s.work.fsm = .idle ∧ t = s) ∨ (s.work.fsm = .check ∧ fsmCheck s = .next t) ∨
      (s.work.fsm = .ksLoad ∧ t = fsmKsLoad s) ∨ (s.work.fsm = .ksStep ∧ t = fsmKsStep s) ∨
      (s.work.fsm.InBlock ∧ (t.work.fsm.InBlock ∨ t.work.fsm = .done) ∧ t.ctx = s.ctx ∧ t.cmd = s.cmd ∧ t.busy = s.busy) ∨
      (s.work.fsm = .done ∧ t = fsmDone s) := by
  unfold tick at h
  split at h
  case h_1 hq => exact .inl ⟨hq, (Host.Outcome.next.inj h).symm⟩
  case h_2 hq => exact .inr (.inl ⟨hq, h⟩)
  case h_3 hq => exact .inr (.inr (.inl ⟨hq, (Host.Outcome.next.inj h).symm⟩))
  case h_4 hq => exact .inr (.inr (.inr (.inl ⟨hq, (Host.Outcome.next.inj h).symm⟩)))
  case h_11 hq => exact .inr (.inr (.inr (.inr (.inr ⟨hq, (Host.Outcome.next.inj h).symm⟩))))
  all_goals
    refine .inr (.inr (.inr (.inr (.inl ?_))))
    cases Host.Outcome.next.inj h
  case h_5 hq => simp [hq, FsmState.InBlock, fsmFetch]
  case h_6 hq => simp [hq, FsmState.InBlock, fsmPre]
  case h_7 hq =>
    refine ⟨.inr (.inr (.inl hq)), .inl ?_, by simp⟩
    rcases fsmRound_fsm s with hr | hr <;> simp [FsmState.InBlock, hr]
  case h_8 hq => simp [hq, FsmState.InBlock, fsmPost]
  case h_9 hq => simp [hq, FsmState.InBlock, fsmStore]
  case h_10 hq =>
    refine ⟨.inr (.inr (.inr (.inr (.inr hq)))), ?_, by simp [fsmChain]⟩
    exact (fsmChain_fsm s).imp_left .inl

/-- `CHECK` keeps the context, `CMD` and `BUSY`; it goes to `KS_LOAD` with legal sizes only, and otherwise to `B_FETCH` or
`DONE` (46 R262). -/
theorem fsmCheck_frame {s t : State} (h : fsmCheck s = .next t) :
    t.ctx = s.ctx ∧ t.cmd = s.cmd ∧ t.busy = s.busy ∧
      ((t.work.fsm = .ksLoad ∧ ∃ kbits bbits, decode s.cmd = .command (.setkey kbits bbits) ∧
          Config.LegalSize kbits ∧ Config.LegalSize bbits) ∨
        t.work.fsm = .bFetch ∨ t.work.fsm = .done) := by
  rcases fsmCheck_cases h with ⟨why, -, rfl⟩ | ⟨i, hd, ⟨e, -, rfl⟩ | ⟨hn, rfl⟩⟩
  · exact ⟨rfl, rfl, rfl, .inr (.inr rfl)⟩
  · exact ⟨rfl, rfl, rfl, .inr (.inr rfl)⟩
  · cases i with
    | setkey kbits bbits =>
      have hl := firstError_setkey_none hn
      exact ⟨rfl, rfl, rfl, .inl ⟨rfl, kbits, bbits, hd, hl.1, hl.2⟩⟩
    | enc => exact ⟨rfl, rfl, rfl, .inr (.inl rfl)⟩
    | dec => exact ⟨rfl, rfl, rfl, .inr (.inl rfl)⟩
    | cbce cr => exact ⟨rfl, rfl, rfl, .inr (ite_eq_or_eq ..).symm⟩
    | cbcd cr => exact ⟨rfl, rfl, rfl, .inr (ite_eq_or_eq ..).symm⟩

/-- Everything a step of the machine and its host can do: a transition, a reset, a read, a storing write, or the start of a
command. -/
theorem cycle_cases {s t : State} (h : cycle s = .next t) :
    tick { s with port := s.port.tail } = .next t ∨
      ∃ e rest, s.port = e :: rest ∧
        ((∃ draw, e = .reset draw ∧ t = applyReset draw { s with port := rest }) ∨
          (∃ wa, e = .read wa ∧ t = { s with port := rest, rdata := some (hostRead wa { s with port := rest }) }) ∨
          (∃ d, e = .write 0 d ∧ s.busy = false ∧ t = startCommand d { s with port := rest }) ∨
          (∃ wa d, e = .write wa d ∧ wa ≠ 0 ∧ s.busy = false ∧ t = storeWrite wa d { s with port := rest })) := by
  unfold cycle at h
  cases hp : s.port with
  | nil =>
    rw [hp] at h
    exact .inl (by rw [List.tail_nil, ← hp]; exact h)
  | cons e rest =>
    rw [hp] at h
    cases e with
    | wait => exact .inl h
    | reset draw => exact .inr ⟨_, rest, rfl, .inl ⟨draw, rfl, (Host.Outcome.next.inj h).symm⟩⟩
    | read wa =>
      simp only [serveCycle] at h
      split at h
      · cases h
      · exact .inr ⟨_, rest, rfl, .inr (.inl ⟨wa, rfl, (Host.Outcome.next.inj h).symm⟩)⟩
    | write wa d =>
      simp only [serveCycle] at h
      split at h
      · cases h
      · next hb =>
        have hb' : s.busy = false := by simpa using hb
        split at h
        · next h0 =>
          subst h0
          exact .inr ⟨_, rest, rfl, .inr (.inr (.inl ⟨d, rfl, hb', (Host.Outcome.next.inj h).symm⟩))⟩
        · next h0 =>
          exact .inr ⟨_, rest, rfl, .inr (.inr (.inr ⟨wa, d, rfl, h0, hb', (Host.Outcome.next.inj h).symm⟩))⟩

/-! ### BUSY and IDLE -/

/-- `BUSY` is 1 exactly outside `IDLE` (46 R261). -/
def State.BusyOutsideIdle (s : State) : Prop := s.busy = true ↔ s.work.fsm ≠ .idle

theorem FsmState.InBlock.ne_idle {q : FsmState} (h : q.InBlock) : q ≠ .idle := by
  rintro rfl
  simp [FsmState.InBlock] at h

theorem tick_keeps_busyOutsideIdle {s t : State} (hs : s.BusyOutsideIdle) (h : tick s = .next t) : t.BusyOutsideIdle := by
  have hbusy {q : FsmState} (hq : s.work.fsm = q) (hne : q ≠ .idle) : s.busy = true := hs.2 (hq ▸ hne)
  rcases tick_cases h with ⟨-, rfl⟩ | ⟨hq, hc⟩ | ⟨hq, rfl⟩ | ⟨hq, rfl⟩ | ⟨hq, ht, -, -, hb⟩ | ⟨-, rfl⟩
  · exact hs
  · obtain ⟨-, -, hb, ht⟩ := fsmCheck_frame hc
    refine iff_of_true (hb.trans (hbusy hq nofun)) ?_
    rcases ht with ⟨ht, -⟩ | ht | ht <;> rw [ht] <;> exact nofun
  · exact iff_of_true (hbusy hq nofun) nofun
  · refine iff_of_true (hbusy hq nofun) ?_
    unfold fsmKsStep
    rw [State.setWork_work]
    split <;> exact nofun
  · refine iff_of_true (hb.trans (hbusy rfl hq.ne_idle)) ?_
    rcases ht with ht | ht
    · exact ht.ne_idle
    · rw [ht]
      exact nofun
  · exact iff_of_false nofun (not_not.2 rfl)

/-- Settles O52: a transition keeps the rule (`tick_keeps_busyOutsideIdle`), the start of a command and the reset set both
sides of it, and no other access writes either. -/
theorem busyMeansNotIdle : Obligations.BusyMeansNotIdle := by
  intro s t hs h
  rcases cycle_cases h with ht | ⟨e, rest, -, hcase⟩
  · exact tick_keeps_busyOutsideIdle (s := { s with port := s.port.tail }) hs ht
  · rcases hcase with ⟨draw, -, rfl⟩ | ⟨wa, -, rfl⟩ | ⟨d, -, -, rfl⟩ | ⟨wa, d, -, -, -, rfl⟩
    · exact iff_of_false nofun (not_not.2 rfl)
    · exact hs
    · exact iff_of_true rfl nofun
    · rw [storeWrite_busy, storeWrite_work]
      exact hs

/-! ### The schedule is never partially valid -/

/-- Outside the key expansion the rule speaks of the context only, so what keeps the context keeps the rule. -/
theorem State.ScheduleWhole.of_ctx_eq {s t : State} (hs : s.ScheduleWhole) (hctx : t.ctx = s.ctx)
    (hload : t.work.fsm ≠ .ksLoad) (hstep : t.work.fsm ≠ .ksStep) : t.ScheduleWhole :=
  ⟨hctx ▸ hs.1, fun h => absurd h hload, fun h => absurd h hstep⟩

theorem FsmState.InBlock.ne_ksLoad {q : FsmState} (h : q.InBlock) : q ≠ .ksLoad := by
  rintro rfl
  simp [FsmState.InBlock] at h

theorem FsmState.InBlock.ne_ksStep {q : FsmState} (h : q.InBlock) : q ≠ .ksStep := by
  rintro rfl
  simp [FsmState.InBlock] at h

theorem lt_scheduleLength {nk nb : Nat} (hk : LegalWords nk) (hb : LegalWords nb) : nk < scheduleLength nk nb := by
  rcases hk with rfl | rfl | rfl <;> rcases hb with rfl | rfl | rfl <;> decide

/-- `KS_LOAD` leaves an unkeyed context with the sizes of the word in `CMD` and the key words (46 R263). -/
theorem fsmKsLoad_scheduleWhole {s : State} {kbits bbits : Nat} (hd : decode s.cmd = .command (.setkey kbits bbits))
    (hk : Config.LegalSize kbits) (hb : Config.LegalSize bbits) : (fsmKsLoad s).ScheduleWhole := by
  obtain ⟨rfl, rfl⟩ := decode_setkey hd
  have hnk := legalWords_of_legalSize hk
  have hnb := legalWords_of_legalSize hb
  have hlt := lt_scheduleLength hnk hnb
  have hle := scheduleLength_le hnk hnb
  have hNb : (fsmKsLoad s).ctx.nb.toNat = wordsOfBits (fieldBbits s.cmd).toNat := keyedContext_nb [] 0 hnb
  have hNk : (fsmKsLoad s).ctx.nk.toNat = wordsOfBits (fieldKbits s.cmd).toNat := keyedContext_nk [] 0 hnk
  have hNr : (fsmKsLoad s).ctx.nr.toNat = _ := keyedContext_nr [] hnk hnb
  have hLen : (fsmKsLoad s).ctx.rklen.toNat = _ := keyedContext_rklen [] hnk hnb
  have hRk : (fsmKsLoad s).ctx.rk.length = wordsOfBits (fieldKbits s.cmd).toNat := by simp [fsmKsLoad, keyWords]
  have hIdx : (fsmKsLoad s).work.kidx.toNat = wordsOfBits (fieldKbits s.cmd).toNat := Nat.mod_eq_of_lt (by omega)
  refine ⟨nofun, nofun, fun _ => ?_⟩
  rw [hNb, hNk, hNr, hLen, hRk, hIdx]
  exact ⟨rfl, hnb, hnk, rfl, rfl, rfl, hlt⟩

/-- The word that `KS_STEP` adds to the schedule (46 R264). -/
def nextScheduleWord (s : State) : Word := scheduleWord s.ctx.nk.toNat s.work.kidx.toNat s.work.rc s.ctx.rk

theorem fsmKsStep_last {s : State} (h : s.work.kidx.toNat + 1 = s.ctx.rklen.toNat) :
    (fsmKsStep s).ctx = { s.ctx with rk := s.ctx.rk ++ [nextScheduleWord s], keyed := true } ∧
      (fsmKsStep s).work.fsm = .done := by
  simp [fsmKsStep, h, nextScheduleWord]

theorem fsmKsStep_more {s : State} (h : s.work.kidx.toNat + 1 ≠ s.ctx.rklen.toNat) :
    (fsmKsStep s).ctx = { s.ctx with rk := s.ctx.rk ++ [nextScheduleWord s] } ∧ (fsmKsStep s).work.fsm = .ksStep ∧
      (fsmKsStep s).work.kidx = BitVec.ofNat 7 (s.work.kidx.toNat + 1) := by
  simp [fsmKsStep, h, nextScheduleWord]

/-- `KS_STEP` keys the context with the last word only, and then the schedule has all its words (46 R264). -/
theorem fsmKsStep_scheduleWhole {s : State} (hs : s.ScheduleWhole) (hq : s.work.fsm = .ksStep) :
    (fsmKsStep s).ScheduleWhole := by
  obtain ⟨-, -, hexpanding⟩ := hs
  obtain ⟨hkeyed, hnb, hnk, hnr, hlen, hrk, hlt⟩ := hexpanding hq
  by_cases hlast : s.work.kidx.toNat + 1 = s.ctx.rklen.toNat
  · obtain ⟨hctx, hdone⟩ := fsmKsStep_last hlast
    refine ⟨fun _ => ?_, by rw [hdone]; exact nofun, by rw [hdone]; exact nofun⟩
    rw [hctx]
    exact ⟨hnb, hnk, hnr, hlen, by rw [List.length_append, hrk, List.length_singleton, hlast]⟩
  · obtain ⟨hctx, hstep, hidx⟩ := fsmKsStep_more hlast
    have hbound := s.ctx.rklen.isLt
    have hidx' : (fsmKsStep s).work.kidx.toNat = s.work.kidx.toNat + 1 := by
      rw [hidx, BitVec.toNat_ofNat, Nat.mod_eq_of_lt (by omega)]
    refine ⟨?_, by rw [hstep]; exact nofun, fun _ => ?_⟩
    · rw [hctx, hkeyed]
      exact nofun
    · rw [hctx, hidx']
      exact ⟨hkeyed, hnb, hnk, hnr, hlen, by rw [List.length_append, hrk, List.length_singleton],
        lt_of_le_of_ne hlt hlast⟩

theorem tick_keeps_scheduleWhole {s t : State} (hs : s.ScheduleWhole) (h : tick s = .next t) : t.ScheduleWhole := by
  have ⟨hlegal, hload, _⟩ := hs
  rcases tick_cases h with ⟨-, rfl⟩ | ⟨hq, hc⟩ | ⟨hq, rfl⟩ | ⟨hq, rfl⟩ | ⟨hq, ht, hctx, -, -⟩ | ⟨-, rfl⟩
  · exact hs
  · obtain ⟨hctx, hcmd, -, ⟨ht, hsetkey⟩ | ht | ht⟩ := fsmCheck_frame hc
    · exact ⟨hctx ▸ hlegal, fun _ => hcmd ▸ hsetkey, by rw [ht]; exact nofun⟩
    · exact hs.of_ctx_eq hctx (by rw [ht]; exact nofun) (by rw [ht]; exact nofun)
    · exact hs.of_ctx_eq hctx (by rw [ht]; exact nofun) (by rw [ht]; exact nofun)
  · obtain ⟨kbits, bbits, hd, hk, hb⟩ := hload hq
    exact fsmKsLoad_scheduleWhole hd hk hb
  · exact fsmKsStep_scheduleWhole hs hq
  · rcases ht with ht | ht
    · exact hs.of_ctx_eq hctx ht.ne_ksLoad ht.ne_ksStep
    · exact hs.of_ctx_eq hctx (by rw [ht]; exact nofun) (by rw [ht]; exact nofun)
  · exact hs.of_ctx_eq rfl nofun nofun

/-- Settles O53: of all a cycle can do, only `KS_LOAD` and `KS_STEP` write a schedule; a reset empties it. -/
theorem theScheduleIsNeverPartiallyValid : Obligations.TheScheduleIsNeverPartiallyValid := by
  intro s t hs h
  rcases cycle_cases h with ht | ⟨e, rest, -, hcase⟩
  · exact tick_keeps_scheduleWhole (s := { s with port := s.port.tail }) hs ht
  · rcases hcase with ⟨draw, -, rfl⟩ | ⟨wa, -, rfl⟩ | ⟨d, -, -, rfl⟩ | ⟨wa, d, -, -, -, rfl⟩
    · exact ⟨nofun, nofun, nofun⟩
    · exact hs
    · exact hs.of_ctx_eq rfl nofun nofun
    · rw [State.ScheduleWhole, storeWrite_ctx, storeWrite_cmd, storeWrite_work]
      exact hs

end Sys2Proof.Machine
end

section
/-! Memory and the host's map (20): how a block lies in the cipher state, what a read returns after a write, and which accesses
a busy engine takes. -/

namespace Sys2Proof.Machine

/-! ### A block in the cipher state (20 R62) -/

/-- Byte `r` from the top of `Wd(B, c)` (00 R12). -/
theorem wordByte_wordAt (b : List Byte) (c : Nat) {r : Nat} (hr : r < 4) :
    wordByte (wordAt b c) r = b.getD (4 * c + r) 0 := by
  match r, hr with
  | 0, _ => exact wordByte_wordOf_0 ..
  | 1, _ => exact wordByte_wordOf_1 ..
  | 2, _ => exact wordByte_wordOf_2 ..
  | 3, _ => exact wordByte_wordOf_3 ..

theorem columnRow_columnAt (b : List Byte) (c : Nat) {r : Nat} (hr : r < 4) :
    columnRow (columnAt b c) r = b.getD (4 * c + r) 0 := by
  match r, hr with
  | 0, _ | 1, _ | 2, _ | 3, _ => rfl

theorem columnBytes_getD (x : Column) {r : Nat} (hr : r < 4) : (columnBytes x).getD r 0 = columnRow x r := by
  match r, hr with
  | 0, _ | 1, _ | 2, _ | 3, _ => rfl

/-- Loading: `a[r][c] = B[4c + r]`. -/
theorem cell_loadState (b : List Byte) {nb r c : Nat} (hr : r < 4) (hc : c < nb) :
    cell (loadState b nb) r c = b.getD (4 * c + r) 0 := by
  have hcol : (loadState b nb).getD c ⟨0, 0, 0, 0⟩ = columnAt b c := by simp [loadState, List.getD_eq_getElem?_getD, hc]
  rw [cell, hcol, columnRow_columnAt b c hr]

/-- Storing: `B[4c + r] = a[r][c]`. -/
theorem storeState_getD {a : List Column} {r c : Nat} (hr : r < 4) (hc : c < a.length) :
    (storeState a).getD (4 * c + r) 0 = cell a r c := by
  induction a generalizing c with
  | nil => exact absurd hc (Nat.not_lt_zero c)
  | cons x a ih =>
    have hlen : (columnBytes x).length = 4 := rfl
    rw [storeState, List.flatMap_cons]
    cases c with
    | zero => rw [List.getD_append _ _ _ _ (by omega), Nat.mul_zero, Nat.zero_add, columnBytes_getD x hr]; rfl
    | succ c =>
      have hidx : 4 * (c + 1) + r - (columnBytes x).length = 4 * c + r := by omega
      rw [List.getD_append_right _ _ _ _ (by omega), hidx]
      exact ih (Nat.lt_of_succ_lt_succ hc)

theorem columnAt_storeState {a : List Column} {c : Nat} (hc : c < a.length) : columnAt (storeState a) c = a[c] := by
  have hrow (r : Nat) (hr : r < 4) : (storeState a).getD (4 * c + r) 0 = columnRow a[c] r := by
    rw [storeState_getD hr hc, cell, List.getD_eq_getElem _ _ hc]
  exact Column.mk.injEq .. ▸ ⟨hrow 0 (by decide), hrow 1 (by decide), hrow 2 (by decide), hrow 3 (by decide)⟩

theorem loadState_storeState (a : List Column) : loadState (storeState a) a.length = a :=
  List.ext_getElem (loadState_length _ _) fun c _ hc => by simp [loadState, columnAt_storeState hc]

theorem storeState_loadState {b : List Byte} {nb : Nat} (hb : b.length = 4 * nb) : storeState (loadState b nb) = b := by
  have hlen : (storeState (loadState b nb)).length = b.length := by rw [storeState_length, loadState_length, hb]
  refine List.ext_getElem hlen fun i hi hi' => ?_
  have hrow : i % 4 < 4 := Nat.mod_lt i (by decide)
  have hcol : i / 4 < nb := by omega
  have hidx : i = 4 * (i / 4) + i % 4 := (Nat.div_add_mod i 4).symm
  rw [← List.getD_eq_getElem _ 0 hi, ← List.getD_eq_getElem _ 0 hi', hidx,
    storeState_getD hrow (by rwa [loadState_length]), cell_loadState b hrow hcol]

/-- Settles O15: both round trips come from the two byte laws, `cell_loadState` and `storeState_getD`. -/
theorem blocksLieInTheStateColumnByColumn : Obligations.BlocksLieInTheStateColumnByColumn := by
  constructor
  · intro b nb hb
    refine ⟨loadState_length b nb, storeState_loadState hb, fun r hr c hc => ?_⟩
    exact ⟨cell_loadState b hr hc, (cell_loadState b hr hc).trans (wordByte_wordAt b c hr).symm⟩
  · exact fun a => ⟨storeState_length a, loadState_storeState a, fun r hr c hc => storeState_getD hr hc⟩

/-! ### Words of a 32-byte buffer and of `DBUF` (45 R243, R248) -/

/-- A word written to a buffer puts its bytes in place, first byte first. -/
theorem bufSetWord_getD_inside (v : Vector Byte 32) (d : Word) {j r : Nat} (hj : j < 8) (hr : r < 4) :
    (bufSetWord v j d).toList.getD (4 * j + r) 0 = wordByte d r := by
  have hstart : 4 * j < 32 := by omega
  have hin : 4 * j + r < 32 := by omega
  match r, hr with
  | 0, _ | 1, _ | 2, _ | 3, _ => simp [bufSetWord, List.getD_eq_getElem?_getD, hstart, hin]

theorem bufSetWord_getD_outside (v : Vector Byte 32) (d : Word) {j i : Nat} (hi : i < 4 * j ∨ 4 * j + 4 ≤ i) :
    (bufSetWord v j d).toList.getD i 0 = v.toList.getD i 0 := by
  have h0 : 4 * j ≠ i := by omega
  have h1 : 4 * j + 1 ≠ i := by omega
  have h2 : 4 * j + 2 ≠ i := by omega
  have h3 : 4 * j + 3 ≠ i := by omega
  simp [bufSetWord, List.getD_eq_getElem?_getD, h0, h1, h2, h3]

theorem bufWord_bufSetWord_same (v : Vector Byte 32) (d : Word) {j : Nat} (hj : j < 8) :
    bufWord (bufSetWord v j d) j = d := by
  have hbyte (r : Nat) (hr : r < 4) := bufSetWord_getD_inside v d hj hr
  have hfirst := hbyte 0 (by decide)
  rw [Nat.add_zero] at hfirst
  rw [bufWord, wordAt, hfirst, hbyte 1 (by decide), hbyte 2 (by decide), hbyte 3 (by decide), wordOf_wordByte]

theorem bufWord_bufSetWord_ne (v : Vector Byte 32) (d : Word) {j j' : Nat} (h : j' ≠ j) :
    bufWord (bufSetWord v j d) j' = bufWord v j' := by
  have hbyte {i : Nat} (hlo : 4 * j' ≤ i) (hhi : i < 4 * j' + 4) :
      (bufSetWord v j d).toList.getD i 0 = v.toList.getD i 0 := bufSetWord_getD_outside v d (by omega)
  simp only [bufWord, wordAt]
  rw [hbyte, hbyte, hbyte, hbyte] <;> omega

theorem dbufWord_memWrite_same (m : List Host.Cell) (k : Nat) (d : Word) :
    dbufWord (memWrite m (4 * k) (wordBytes d)) k = d := by
  have hread := memRead_memWrite_same m (4 * k) (wordBytes d)
  rw [wordBytes_length] at hread
  rw [dbufWord, hread]
  exact wordOf_wordByte d

theorem dbufWord_memWrite_ne (m : List Host.Cell) {k k' : Nat} (d : Word) (h : k' ≠ k) :
    dbufWord (memWrite m (4 * k) (wordBytes d)) k' = dbufWord m k' := by
  rw [dbufWord, memRead_memWrite_outside _ _ _ (by rw [wordBytes_length]; omega), dbufWord]

/-! ### The host register map (10 R37) -/

/-- The word index of a register of the map. Nothing stands for the reserved indexes, which have no register. -/
def PortReg.index : PortReg → Nat
  | .cmd => 0x000
  | .status => 0x001
  | .src => 0x002
  | .dst => 0x003
  | .len => 0x004
  | .cfg => 0x005
  | .keyinW j => 0x008 + j
  | .crW cr j => crWindow cr + j
  | .rkW i => 0x080 + i
  | .dbufW k => 0x400 + k
  | .none => 0

theorem index_portMap {wa : Nat} (h : portMap wa ≠ .none) : (portMap wa).index = wa := by
  cases hp : portMap wa with
  | none => exact absurd hp h
  | crW cr j =>
    obtain ⟨hlo, -, rfl⟩ := portMap_crW hp
    exact Nat.add_sub_of_le hlo
  | dbufW k =>
    have hrange := portMap_dbufW hp
    simp only [PortReg.index]
    omega
  | _ =>
    simp only [portMap, ite_eq_iff, reduceCtorEq, PortReg.keyinW.injEq, PortReg.rkW.injEq, and_false, and_true,
      false_or, or_false] at hp
    simp only [PortReg.index]
    omega

/-- No two indexes select the same register. -/
theorem portMap_injective {wa wa' : Nat} (h : portMap wa ≠ .none) (heq : portMap wa' = portMap wa) : wa' = wa := by
  rw [← index_portMap h, ← heq, index_portMap (heq ▸ h)]

/-- The registers a storing index selects, each word of a buffer inside it. -/
theorem portMap_storing {wa : Nat} (h : StoringIndex wa) :
    portMap wa = .src ∨ portMap wa = .dst ∨ portMap wa = .len ∨ (∃ j < 8, portMap wa = .keyinW j) ∨
      (∃ cr, ∃ j < 8, portMap wa = .crW cr j) ∨ ∃ k, portMap wa = .dbufW k := by
  cases hp : portMap wa with
  | src | dst | len | dbufW k => simp
  | crW cr j =>
    have hrange := portMap_crW hp
    refine .inr (.inr (.inr (.inr (.inl ⟨cr, j, ?_, rfl⟩))))
    omega
  | _ =>
    simp only [portMap, ite_eq_iff, reduceCtorEq, PortReg.keyinW.injEq, PortReg.rkW.injEq, and_false, and_true,
      false_or, or_false, Config.dbufBytes] at hp
    simp only [reduceCtorEq, PortReg.keyinW.injEq, exists_eq_right', and_false, exists_const, exists_false, or_self,
      or_false, false_or]
    omega

theorem storing_ne_none {wa : Nat} (h : StoringIndex wa) : portMap wa ≠ .none := by
  rcases portMap_storing h with hp | hp | hp | ⟨j, -, hp⟩ | ⟨cr, j, -, hp⟩ | ⟨k, hp⟩ <;> rw [hp] <;> exact nofun

/-! ### What a storing write leaves alone, register by register (45 R242) -/

section Frame
variable {wa : Nat} (d : Word) (s : State)

theorem storeWrite_src_of_ne (h : .src ≠ portMap wa) : (storeWrite wa d s).src = s.src := by
  unfold storeWrite
  split
  case h_1 hp => exact absurd hp.symm h
  all_goals simp

theorem storeWrite_dst_of_ne (h : .dst ≠ portMap wa) : (storeWrite wa d s).dst = s.dst := by
  unfold storeWrite
  split
  case h_2 hp => exact absurd hp.symm h
  all_goals simp

theorem storeWrite_len_of_ne (h : .len ≠ portMap wa) : (storeWrite wa d s).len = s.len := by
  unfold storeWrite
  split
  case h_3 hp => exact absurd hp.symm h
  all_goals simp

theorem storeWrite_keyin_of_ne {j : Nat} (h : .keyinW j ≠ portMap wa) :
    bufWord (storeWrite wa d s).keyin j = bufWord s.keyin j := by
  unfold storeWrite
  split
  case h_4 j' hp => exact bufWord_bufSetWord_ne _ _ fun hj => h (hj ▸ hp.symm)
  all_goals simp

theorem storeWrite_cr_of_ne {cr : ChainReg} {j : Nat} (h : .crW cr j ≠ portMap wa) :
    bufWord ((storeWrite wa d s).cr cr) j = bufWord (s.cr cr) j := by
  unfold storeWrite
  split
  case h_5 n j' hp =>
    by_cases hn : cr = n
    · subst hn
      rw [State.setCr_cr_same]
      exact bufWord_bufSetWord_ne _ _ fun hj => h (hj ▸ hp.symm)
    · rw [State.setCr_cr_other s hn]
  case h_6 => rw [State.setDbuf_cr]
  all_goals cases cr <;> rfl

theorem storeWrite_dbuf_of_ne {k : Nat} (h : .dbufW k ≠ portMap wa) :
    dbufWord (storeWrite wa d s).dbuf k = dbufWord s.dbuf k := by
  unfold storeWrite
  split
  case h_6 k' hp => exact dbufWord_memWrite_ne _ _ fun hk => h (hk ▸ hp.symm)
  all_goals simp

theorem statusWord_storeWrite : statusWord (storeWrite wa d s) = statusWord s := by
  rw [statusWord, storeWrite_err, storeWrite_ctx, storeWrite_busy, statusWord]

theorem cfgWord_storeWrite : cfgWord (storeWrite wa d s) = cfgWord s := by
  rw [cfgWord, storeWrite_ctx, cfgWord]

/-- A word of the map that the write does not select reads as before. -/
theorem hostRead_storeWrite_ne {wa' : Nat} (h : portMap wa' ≠ portMap wa) :
    hostRead wa' (storeWrite wa d s) = hostRead wa' s := by
  unfold hostRead
  split
  case h_1 => exact storeWrite_cmd wa d s
  case h_2 => exact statusWord_storeWrite d s
  case h_3 hp => exact storeWrite_src_of_ne d s (hp ▸ h)
  case h_4 hp => exact storeWrite_dst_of_ne d s (hp ▸ h)
  case h_5 hp => exact storeWrite_len_of_ne d s (hp ▸ h)
  case h_6 => exact cfgWord_storeWrite d s
  case h_7 j hp => exact storeWrite_keyin_of_ne d s (hp ▸ h)
  case h_8 cr j hp => exact storeWrite_cr_of_ne d s (hp ▸ h)
  case h_9 i _ => rw [storeWrite_ctx]
  case h_10 k hp => exact storeWrite_dbuf_of_ne d s (hp ▸ h)
  case h_11 => rfl

/-- A stored word is read back (20 R70). -/
theorem hostRead_storeWrite_same (h : StoringIndex wa) : hostRead wa (storeWrite wa d s) = d := by
  rcases portMap_storing h with hp | hp | hp | ⟨j, hj, hp⟩ | ⟨cr, j, hj, hp⟩ | ⟨k, hp⟩ <;>
    simp only [hostRead, storeWrite, hp]
  · exact bufWord_bufSetWord_same _ d hj
  · rw [State.setCr_cr_same, bufWord_bufSetWord_same _ d hj]
  · exact dbufWord_memWrite_same _ k d

end Frame

/-! ### The host's next access (20 R68, R70, R75) -/

/-- No read depends on the accesses still to come. -/
theorem hostRead_port (wa : Nat) (s : State) (rest : List HostAccess) :
    hostRead wa { s with port := rest } = hostRead wa s := rfl

theorem step_of_port {s : State} {e : HostAccess} {rest : List HostAccess} (hp : s.port = e :: rest) :
    step s = serve e { s with port := rest } := by rw [step, hp]

theorem cycle_of_port {s : State} {e : HostAccess} {rest : List HostAccess} (hp : s.port = e :: rest) :
    cycle s = serveCycle e { s with port := rest } := by rw [cycle, hp]

theorem serve_read_idle (s : State) (h : s.busy = false) (wa : Nat) :
    serve (.read wa) s = .next { s with rdata := some (hostRead wa s) } := if_neg (by simp [h])

theorem serve_write_idle (s : State) (h : s.busy = false) {wa : Nat} (hwa : wa ≠ 0x000) (d : Word) :
    serve (.write wa d) s = .next (storeWrite wa d s) := by simp [serve, hostWrite, h, hwa]

theorem serveCycle_read_busy (s : State) (h : s.busy = true) {wa : Nat} (hwa : wa ≠ 0x001) :
    serveCycle (.read wa) s = .refused .accessWhileBusy := if_pos ⟨h, hwa⟩

theorem serveCycle_write_busy (s : State) (h : s.busy = true) (wa : Nat) (d : Word) :
    serveCycle (.write wa d) s = .refused .accessWhileBusy := if_pos h

theorem serveCycle_read_status (s : State) :
    serveCycle (.read 0x001) s = .next { s with rdata := some (statusWord s) } := if_neg fun h => h.2 rfl

/-- Settles O41: the write lands in the one register its index selects, and no other index selects that register. -/
theorem aStoredWordIsReadBackAndNoOtherChanges : Obligations.AStoredWordIsReadBackAndNoOtherChanges := by
  intro s wa d rest hp hbusy hwa
  have hcmd : wa ≠ 0x000 := by omega
  refine ⟨storeWrite wa d { s with port := rest }, ?_, hostRead_storeWrite_same d _ hwa, fun wa' hne => ?_⟩
  · exact (step_of_port hp).trans (serve_write_idle { s with port := rest } hbusy hcmd d)
  · have hreg : portMap wa' ≠ portMap wa := fun heq => hne (portMap_injective (storing_ne_none hwa) heq)
    rw [hostRead_storeWrite_ne d _ hreg, hostRead_port]

/-- Settles O40: an idle engine serves the read, and the value does not depend on the list the access is taken off. -/
theorem aHostReadChangesNothingInTheEngine : Obligations.AHostReadChangesNothingInTheEngine := by
  intro s wa rest hp hbusy
  rw [step_of_port hp, ← hostRead_port wa s rest]
  exact serve_read_idle { s with port := rest } hbusy wa

/-- Settles O54: `BUSY` refuses all but the read of `STATUS`, whose bit 0 is `BUSY` itself. -/
theorem onlyStatusMayBeReadWhileBusy : Obligations.OnlyStatusMayBeReadWhileBusy := by
  intro s rest hbusy
  refine ⟨fun wa hwa hp => ?_, fun wa d hp => ?_, fun hp => ⟨statusWord { s with port := rest }, ?_, ?_⟩⟩
  · exact (cycle_of_port hp).trans (serveCycle_read_busy { s with port := rest } hbusy hwa)
  · exact (cycle_of_port hp).trans (serveCycle_write_busy { s with port := rest } hbusy wa d)
  · exact (cycle_of_port hp).trans (serveCycle_read_status _)
  · exact (statusWord_busy _).trans hbusy

end Sys2Proof.Machine
end

section
/-! The round trip of command words, the opcode table as masks, and the illegal words (30 R96, R97, R103). -/

namespace Sys2Proof

/-! ### The fields of an encoded command -/

section Fields
open BitVec (extractLsb'_append_eq_of_le extractLsb'_append_eq_of_add_le extractLsb'_eq_self)

variable (kbits bbits : Nat)

theorem fieldOp_encode_setkey : fieldOp (encode (.setkey kbits bbits)) = 0x1#4 := by
  rw [fieldOp, encode, extractLsb'_append_eq_of_le (by decide), extractLsb'_append_eq_of_le (by decide)]
  rfl

theorem fieldRsvK_encode_setkey : fieldRsvK (encode (.setkey kbits bbits)) = 0 := by
  rw [fieldRsvK, encode, extractLsb'_append_eq_of_le (by decide), extractLsb'_append_eq_of_le (by decide)]
  rfl

theorem fieldBbits_encode_setkey : fieldBbits (encode (.setkey kbits bbits)) = BitVec.ofNat 12 bbits := by
  rw [fieldBbits, encode, extractLsb'_append_eq_of_le (by decide), extractLsb'_append_eq_of_add_le (by decide)]
  exact extractLsb'_eq_self

theorem fieldKbits_encode_setkey : fieldKbits (encode (.setkey kbits bbits)) = BitVec.ofNat 12 kbits := by
  rw [fieldKbits, encode, extractLsb'_append_eq_of_add_le (by decide)]
  exact extractLsb'_eq_self

end Fields

/-! ### The opcode table read in both directions (30 R96) -/

/-- A word decodes to a command exactly when it is in that command's row of the opcode table. -/
theorem decode_eq_command_iff {w : Word} {i : Instr} :
    decode w = .command i ↔
      (fieldOp w = 0x1#4 ∧ fieldRsvK w = 0 ∧ i = .setkey (fieldKbits w).toNat (fieldBbits w).toNat) ∨
      (fieldOp w = 0x2#4 ∧ fieldRsvB w = 0 ∧ i = .enc) ∨ (fieldOp w = 0x3#4 ∧ fieldRsvB w = 0 ∧ i = .dec) ∨
      (fieldOp w = 0x4#4 ∧ fieldRsvC w = 0 ∧ i = .cbce (fieldCr w)) ∨
      (fieldOp w = 0x5#4 ∧ fieldRsvC w = 0 ∧ i = .cbcd (fieldCr w)) := by
  refine ⟨decode_cases, ?_⟩
  rintro (⟨ho, hr, rfl⟩ | ⟨ho, hr, rfl⟩ | ⟨ho, hr, rfl⟩ | ⟨ho, hr, rfl⟩ | ⟨ho, hr, rfl⟩) <;> simp [decode, ho, hr]

theorem exists_decode_setkey_iff (w : Word) :
    (∃ kbits bbits, decode w = .command (.setkey kbits bbits)) ↔ fieldOp w = 0x1#4 ∧ fieldRsvK w = 0 := by
  simp [decode_eq_command_iff]

theorem decode_enc_iff (w : Word) : decode w = .command .enc ↔ fieldOp w = 0x2#4 ∧ fieldRsvB w = 0 := by
  simp [decode_eq_command_iff]

theorem decode_dec_iff (w : Word) : decode w = .command .dec ↔ fieldOp w = 0x3#4 ∧ fieldRsvB w = 0 := by
  simp [decode_eq_command_iff]

theorem exists_decode_cbce_iff (w : Word) :
    (∃ cr, decode w = .command (.cbce cr)) ↔ fieldOp w = 0x4#4 ∧ fieldRsvC w = 0 := by
  simp [decode_eq_command_iff]

theorem exists_decode_cbcd_iff (w : Word) :
    (∃ cr, decode w = .command (.cbcd cr)) ↔ fieldOp w = 0x5#4 ∧ fieldRsvC w = 0 := by
  simp [decode_eq_command_iff]

/-- 30 R103: the word of a well-formed command is read back as that command. -/
theorem decode_encode {i : Instr} (h : WellFormed i) : decode (encode i) = .command i := by
  cases i with
  | setkey kbits bbits =>
    obtain ⟨hk, hb⟩ : kbits < 2 ^ 12 ∧ bbits < 2 ^ 12 := by simpa [WellFormed, Instr.wf] using h
    rw [decode, if_pos (fieldOp_encode_setkey kbits bbits), if_pos (fieldRsvK_encode_setkey kbits bbits),
      fieldKbits_encode_setkey, fieldBbits_encode_setkey, BitVec.toNat_ofNat, BitVec.toNat_ofNat,
      Nat.mod_eq_of_lt hk, Nat.mod_eq_of_lt hb]
  | enc => decide
  | dec => decide
  | cbce cr => cases cr <;> decide
  | cbcd cr => cases cr <;> decide

/-- A decoded command is well-formed: the sizes of `SETKEY` come from 12-bit fields (30 R92). -/
theorem wellFormed_of_decode {w : Word} {i : Instr} (h : decode w = .command i) : WellFormed i := by
  cases i with
  | setkey kbits bbits =>
    obtain ⟨rfl, rfl⟩ := decode_setkey h
    simpa [WellFormed, Instr.wf] using And.intro (fieldKbits w).isLt (fieldBbits w).isLt
  | enc => rfl
  | dec => rfl
  | cbce cr => rfl
  | cbcd cr => rfl

/-! ### The masks of the opcode table (30 R96) -/

/-- Two pairs of fields of the same widths make the same word only if they are the same fields. -/
theorem append_eq_append_iff {m n : Nat} {x x' : BitVec m} {y y' : BitVec n} :
    x ++ y = x' ++ y' ↔ x = x' ∧ y = y' := by
  refine ⟨fun h => ⟨?_, ?_⟩, fun ⟨hx, hy⟩ => hx ▸ hy ▸ rfl⟩
  · rw [← BitVec.extractLsb'_append_eq_left (a := x) (b := y), h, BitVec.extractLsb'_append_eq_left]
  · rw [← BitVec.extractLsb'_append_eq_right (a := x) (b := y), h, BitVec.extractLsb'_append_eq_right]

/-- The mask of format K keeps `op` and `rsvK` (30 R92). -/
theorem and_maskK (w : Word) : w &&& 0xFF000000#32 = fieldOp w ++ fieldRsvK w ++ 0#12 ++ 0#12 :=
  calc w &&& 0xFF000000#32
      = (fieldOp w ++ fieldRsvK w ++ fieldBbits w ++ fieldKbits w) &&&
          (BitVec.allOnes 4 ++ BitVec.allOnes 4 ++ 0#12 ++ 0#12) := by rw [fieldOp_append_fieldKbits]; rfl
    _ = fieldOp w ++ fieldRsvK w ++ 0#12 ++ 0#12 := by simp only [BitVec.and_append, BitVec.and_allOnes, BitVec.and_zero]

theorem and_maskK_eq_iff (w : Word) (op : BitVec 4) :
    w &&& 0xFF000000#32 = op ++ 0#4 ++ 0#12 ++ 0#12 ↔ fieldOp w = op ∧ fieldRsvK w = 0 := by
  rw [and_maskK, BitVec.append_left_inj, BitVec.append_left_inj, append_eq_append_iff]
  rfl

/-- The mask of format B selects `op` and `rsvB`, the whole word (30 R93). -/
theorem and_maskB_eq_iff (w : Word) (op : BitVec 4) :
    w &&& 0xFFFFFFFF#32 = op ++ 0#28 ↔ fieldOp w = op ∧ fieldRsvB w = 0 := by
  have hmask : 0xFFFFFFFF#32 = BitVec.allOnes 32 := by decide
  rw [hmask, BitVec.and_allOnes, ← append_eq_append_iff, fieldOp_append_fieldRsvB]
  rfl

/-- The mask of format C keeps `op` and `rsvC` (30 R94). -/
theorem and_maskC (w : Word) : w &&& 0xFFFFFFFE#32 = fieldOp w ++ fieldRsvC w ++ 0#1 :=
  calc w &&& 0xFFFFFFFE#32
      = (fieldOp w ++ fieldRsvC w ++ crBit (fieldCr w)) &&& (BitVec.allOnes 4 ++ BitVec.allOnes 27 ++ 0#1) := by
        rw [fieldOp_append_fieldCr]; rfl
    _ = fieldOp w ++ fieldRsvC w ++ 0#1 := by simp only [BitVec.and_append, BitVec.and_allOnes, BitVec.and_zero]

theorem and_maskC_eq_iff (w : Word) (op : BitVec 4) :
    w &&& 0xFFFFFFFE#32 = op ++ 0#27 ++ 0#1 ↔ fieldOp w = op ∧ fieldRsvC w = 0 := by
  rw [and_maskC, BitVec.append_left_inj, append_eq_append_iff]
  rfl

/-! ### The illegal words (30 R97) -/

/-- The opcodes that no command has. -/
theorem decode_noSuchOp_iff (w : Word) :
    decode w = .illegal .noSuchOp ↔ (fieldOp w).toNat = 0 ∨ 6 ≤ (fieldOp w).toNat := by
  have hop : decode w = .illegal .noSuchOp ↔
      fieldOp w ≠ 0x1#4 ∧ fieldOp w ≠ 0x2#4 ∧ fieldOp w ≠ 0x3#4 ∧ fieldOp w ≠ 0x4#4 ∧ fieldOp w ≠ 0x5#4 := by
    unfold decode
    split_ifs <;> simp [*]
  rw [hop]
  bv_omega

/-- The reserved field of each format. -/
theorem decode_reservedBits_iff (w : Word) :
    decode w = .illegal .reservedBits ↔
      ((fieldOp w).toNat = 1 ∧ fieldRsvK w ≠ 0) ∨
      (((fieldOp w).toNat = 2 ∨ (fieldOp w).toNat = 3) ∧ fieldRsvB w ≠ 0) ∨
      (((fieldOp w).toNat = 4 ∨ (fieldOp w).toNat = 5) ∧ fieldRsvC w ≠ 0) := by
  have hop : decode w = .illegal .reservedBits ↔
      (fieldOp w = 0x1#4 ∧ fieldRsvK w ≠ 0) ∨
      ((fieldOp w = 0x2#4 ∨ fieldOp w = 0x3#4) ∧ fieldRsvB w ≠ 0) ∨
      ((fieldOp w = 0x4#4 ∨ fieldOp w = 0x5#4) ∧ fieldRsvC w ≠ 0) := by
    unfold decode
    split_ifs <;> simp_all
  rw [hop]
  simp only [← BitVec.toNat_inj (x := fieldOp w), BitVec.toNat_ofNat]

theorem exists_illegal_iff (d : Decoded) :
    (∃ why, d = .illegal why) ↔ d = .illegal .noSuchOp ∨ d = .illegal .reservedBits := by
  constructor
  · rintro ⟨why, rfl⟩
    cases why with
    | noSuchOp => exact .inl rfl
    | reservedBits => exact .inr rfl
  · rintro (rfl | rfl) <;> exact ⟨_, rfl⟩

end Sys2Proof

namespace Sys2Proof.Machine

/-! ### The write of an illegal word to `CMD` (30 R97, 45 R244) -/

theorem serve_write_cmd_idle (s : State) (h : s.busy = false) (d : Word) :
    serve (.write 0x000 d) s = issue d s := by simp [serve, hostWrite, h]

theorem issue_illegal {d : Word} {why : IllegalWord} (h : decode d = .illegal why) (s : State) :
    issue d s = .next ((acceptCommand d s).finish .illegalCommand) := by rw [issue, h, raise_eq]

/-- What marks the engine busy is undone by the error's end, so an idle engine keeps all but `CMD` and `ERR`. -/
theorem finish_acceptCommand_idle {s : State} (h : s.busy = false) (d : Word) (e : ErrorCode) :
    (acceptCommand d s).finish e = { s with cmd := d, err := errCode e } := by
  rw [acceptCommand, State.finish, ← h]

/-! ### The statements -/

/-- Settles O1, command by command, with the fields of the word of `SETKEY`. -/
theorem everyCommandIsReadBackFromItsWord : Obligations.EveryCommandIsReadBackFromItsWord := fun _ => decode_encode

/-- Settles O2: the word is put together again from its fields, each of which is an operand or fixed. -/
theorem aDecodedWordIsTheCommandsWord : Obligations.ADecodedWordIsTheCommandsWord := fun _ _ h =>
  ⟨wellFormed_of_decode h, encode_of_decode h⟩

/-- Settles O3: decoding and the mask ask for the same two fields. -/
theorem decodingIsMatchUnderMask : Obligations.DecodingIsMatchUnderMask := fun w =>
  ⟨(exists_decode_setkey_iff w).trans (and_maskK_eq_iff w 0x1#4).symm,
    (decode_enc_iff w).trans (and_maskB_eq_iff w 0x2#4).symm,
    (decode_dec_iff w).trans (and_maskB_eq_iff w 0x3#4).symm,
    (exists_decode_cbce_iff w).trans (and_maskC_eq_iff w 0x4#4).symm,
    (exists_decode_cbcd_iff w).trans (and_maskC_eq_iff w 0x5#4).symm⟩

/-- Settles O5: the two reasons a word is illegal, and an access that marks the engine busy and at once idle again. -/
theorem illegalWordsSetErrAndNothingElse : Obligations.IllegalWordsSetErrAndNothingElse := by
  refine ⟨fun w => ?_, ⟨.noSuchOp, by decide⟩, ⟨.noSuchOp, by decide⟩, fun s w why rest hp hidle hill => ?_⟩
  · rw [exists_illegal_iff, decode_noSuchOp_iff, decode_reservedBits_iff]
    rfl
  · calc step s = serve (.write 0x000 w) { s with port := rest } := step_of_port hp
      _ = issue w { s with port := rest } := serve_write_cmd_idle { s with port := rest } hidle w
      _ = .next ((acceptCommand w { s with port := rest }).finish .illegalCommand) := issue_illegal hill _
      _ = .next { s with port := rest, cmd := w, err := 5 } :=
        congrArg _ (finish_acceptCommand_idle (s := { s with port := rest }) hidle w .illegalCommand)

/-- Settles O4: closed words, decoded one by one. -/
theorem wordsFromTheEncodingTableDecode : Obligations.WordsFromTheEncodingTableDecode := by
  unfold Obligations.WordsFromTheEncodingTableDecode
  decide

end Sys2Proof.Machine
end

section
/-! The field GF(2^8) and its tables (40 R121 to R126, R130): `gmul` is linear in both factors and commutes with `xtime`, and the
byte `1` with `xtime` and `xor` makes every byte; from that the laws of the field, the inverse, and what the tables hold. -/

namespace Sys2Proof.Machine

/-! ### The product is linear in both factors (40 R121, R122) -/

theorem xor_xor_xor_cancel (p q a : Byte) : (p ^^^ a) ^^^ (q ^^^ a) = p ^^^ q :=
  calc (p ^^^ a) ^^^ (q ^^^ a) = (p ^^^ q) ^^^ (a ^^^ a) := by ac_rfl
    _ = p ^^^ q := by rw [BitVec.xor_self, BitVec.xor_zero]

/-- Adding `a` to a sum where exactly one of two conditions holds is adding it to each term whose condition holds. -/
theorem ite_xor_ite (c d : Bool) (p q a : Byte) :
    (if c then p ^^^ a else p) ^^^ (if d then q ^^^ a else q) = if c ^^ d then p ^^^ q ^^^ a else p ^^^ q := by
  cases c <;> cases d
  case false.false => rfl
  case false.true => exact (BitVec.xor_assoc ..).symm
  case true.false =>
    change (p ^^^ a) ^^^ q = p ^^^ q ^^^ a
    ac_rfl
  case true.true => exact xor_xor_xor_cancel p q a

theorem xtime_xor (a b : Byte) : xtime (a ^^^ b) = xtime a ^^^ xtime b := by
  rw [xtime, xtime, xtime, BitVec.getLsbD_xor, BitVec.shiftLeft_xor_distrib, ite_xor_ite]

theorem gmulFrom_xor_left (b : Byte) (n i : Nat) (a a' p p' : Byte) :
    gmulFrom b n i (a ^^^ a') (p ^^^ p') = gmulFrom b n i a p ^^^ gmulFrom b n i a' p' := by
  induction n generalizing i a a' p p' with
  | zero => rfl
  | succ n ih =>
    rw [gmulFrom, gmulFrom, gmulFrom, ← ih, xtime_xor]
    split
    · congr 1; ac_rfl
    · rfl

theorem gmulFrom_xor_right (b b' : Byte) (n i : Nat) (a p p' : Byte) :
    gmulFrom (b ^^^ b') n i a (p ^^^ p') = gmulFrom b n i a p ^^^ gmulFrom b' n i a p' := by
  induction n generalizing i a p p' with
  | zero => rfl
  | succ n ih =>
    rw [gmulFrom, gmulFrom, gmulFrom, ← ih, BitVec.getLsbD_xor, ite_xor_ite]

theorem gmulFrom_xtime (b : Byte) (n i : Nat) (a p : Byte) :
    gmulFrom b n i (xtime a) (xtime p) = xtime (gmulFrom b n i a p) := by
  induction n generalizing i a p with
  | zero => rfl
  | succ n ih => rw [gmulFrom, gmulFrom, ← ih, apply_ite xtime, xtime_xor]

/-- The loop ends at a byte made from its two start values by `xtime` and `xor`. -/
theorem gmulFrom_induction {P : Byte → Prop} (hxtime : ∀ a, P a → P (xtime a))
    (hxor : ∀ a b, P a → P b → P (a ^^^ b)) (b : Byte) (n i : Nat) {a p : Byte} (ha : P a)
    (hp : P p) : P (gmulFrom b n i a p) := by
  induction n generalizing i a p with
  | zero => exact hp
  | succ n ih =>
    refine ih (i + 1) (hxtime a ha) ?_
    split
    · exact hxor p a hp ha
    · exact hp

theorem xor_gmul (a b c : Byte) : gmul (a ^^^ b) c = gmul a c ^^^ gmul b c := gmulFrom_xor_left c 8 0 a b 0 0

theorem gmul_xor (a b c : Byte) : gmul a (b ^^^ c) = gmul a b ^^^ gmul a c := gmulFrom_xor_right b c 8 0 a 0 0

theorem xtime_gmul (a b : Byte) : gmul (xtime a) b = xtime (gmul a b) := gmulFrom_xtime b 8 0 a 0

@[simp] theorem one_gmul (b : Byte) : gmul 0x01#8 b = b := by revert b; decide

@[simp] theorem gmul_one (a : Byte) : gmul a 0x01#8 = a := by simp [gmul, gmulFrom]

@[simp] theorem gmul_zero (a : Byte) : gmul a 0x00#8 = 0x00#8 := by simp [gmul, gmulFrom]

/-- Every byte is made from `1` by `xtime` and `xor`, as the product `1 * b` makes it. -/
theorem byte_induction {P : Byte → Prop} (one : P 0x01#8) (xtime : ∀ a, P a → P (xtime a))
    (xor : ∀ a b, P a → P b → P (a ^^^ b)) (b : Byte) : P b := by
  have h : P (gmul 0x01#8 b) := gmulFrom_induction xtime xor b 8 0 one (xor _ _ one one)
  rwa [one_gmul] at h

/-! ### The laws of the product (40 R130) -/

theorem gmul_xtime (a b : Byte) : gmul a (xtime b) = xtime (gmul a b) := by
  induction a using byte_induction with
  | one => rw [one_gmul, one_gmul]
  | xtime a ih => rw [xtime_gmul, xtime_gmul, ih]
  | xor a a' ih ih' => rw [xor_gmul, xor_gmul, xtime_xor, ih, ih']

theorem gmul_comm (a b : Byte) : gmul a b = gmul b a := by
  induction b using byte_induction with
  | one => rw [one_gmul, gmul_one]
  | xtime b ih => rw [gmul_xtime, xtime_gmul, ih]
  | xor b b' ih ih' => rw [gmul_xor, xor_gmul, ih, ih']

theorem gmul_assoc (a b c : Byte) : gmul (gmul a b) c = gmul a (gmul b c) := by
  induction a using byte_induction with
  | one => rw [one_gmul, one_gmul]
  | xtime a ih => rw [xtime_gmul, xtime_gmul, xtime_gmul, ih]
  | xor a a' ih ih' => rw [xor_gmul, xor_gmul, xor_gmul, ih, ih']

/-! ### The inverse (40 R123): `ginv` is the 254th power, and squaring eight times gives the byte back -/

/-- The square in the field. -/
def gsquare (a : Byte) : Byte := gmul a a

theorem gsquare_gmul : Function.Semiconj₂ gsquare gmul gmul := fun a b =>
  calc gmul (gmul a b) (gmul a b) = gmul a (gmul (gmul b a) b) := by rw [gmul_assoc, gmul_assoc]
    _ = gmul (gmul a a) (gmul b b) := by rw [gmul_comm b a, gmul_assoc, gmul_assoc]

/-- Squaring is additive: the two mixed products cancel. -/
theorem gsquare_xor : Function.Semiconj₂ gsquare (· ^^^ ·) (· ^^^ ·) := fun a b =>
  calc gmul (a ^^^ b) (a ^^^ b) = (gmul a a ^^^ gmul a b) ^^^ (gmul b b ^^^ gmul a b) := by
        rw [xor_gmul, gmul_xor, gmul_xor, gmul_comm b a, BitVec.xor_comm (gmul a b) (gmul b b)]
    _ = gmul a a ^^^ gmul b b := xor_xor_xor_cancel ..

theorem xtime_eq_gmul (a : Byte) : xtime a = gmul 0x02#8 a :=
  calc xtime a = xtime (gmul 0x01#8 a) := by rw [one_gmul]
    _ = gmul 0x02#8 a := (xtime_gmul 0x01#8 a).symm

/-- `a ^ 256 = a`: squaring respects product and sum, so the byte `0x02` decides it. -/
theorem gsquare_iterate_eight (a : Byte) : gsquare^[8] a = a := by
  induction a using byte_induction with
  | one => decide
  | xtime a ih =>
    have htwo : gsquare^[8] 0x02#8 = 0x02#8 := by decide
    rw [xtime_eq_gmul, gsquare_gmul.iterate 8, htwo, ih]
  | xor a b iha ihb => rw [gsquare_xor.iterate 8, iha, ihb]

/-- The two factors `a` complete the 254th power to `a ^ 256`. -/
theorem gmul_gmul_ginv (a : Byte) : gmul a (gmul a (ginv a)) = a :=
  calc gmul a (gmul a (ginv a)) = gsquare^[8] a := by
        have hself : ∀ b, gmul b b = gsquare b := fun _ => rfl
        simp only [ginv, hself, ← gmul_assoc]
        rfl
    _ = a := gsquare_iterate_eight a

/-! ### The S-box holds the inverses (40 R124) -/

/-- The inverse of the affine map `sboxAffine`. -/
def sboxAffineInv (b : Byte) : Byte := rotl8 b 1 ^^^ rotl8 b 3 ^^^ rotl8 b 6 ^^^ 0x05#8

theorem sboxAffine_sboxAffineInv (b : Byte) : sboxAffine (sboxAffineInv b) = b := by revert b; decide

theorem gmul_sboxAffineInv_sbox : ∀ x : Byte, x ≠ 0x00#8 → gmul x (sboxAffineInv (sbox x)) = 0x01#8 := by decide

theorem sbox_ne_self (x : Byte) : sbox x ≠ x := by revert x; decide

theorem gmul_ginv {a : Byte} (h : a ≠ 0x00#8) : gmul a (ginv a) = 0x01#8 := by
  obtain ⟨y, hy⟩ : ∃ y, gmul y a = 0x01#8 := ⟨_, (gmul_comm _ a).trans (gmul_sboxAffineInv_sbox a h)⟩
  calc gmul a (ginv a) = gmul (gmul y a) (gmul a (ginv a)) := by rw [hy, one_gmul]
    _ = gmul y a := by rw [gmul_assoc, gmul_gmul_ginv]
    _ = 0x01#8 := hy

theorem ginv_gmul_cancel {a : Byte} (h : a ≠ 0x00#8) (b : Byte) : gmul (ginv a) (gmul a b) = b := by
  rw [← gmul_assoc, gmul_comm (ginv a), gmul_ginv h, one_gmul]

theorem gmul_ginv_cancel {a : Byte} (h : a ≠ 0x00#8) (b : Byte) : gmul a (gmul (ginv a) b) = b := by
  rw [← gmul_assoc, gmul_ginv h, one_gmul]

theorem eq_ginv_of_gmul_eq_one {a b : Byte} (h : a ≠ 0x00#8) (hab : gmul a b = 0x01#8) : b = ginv a := by
  rw [← ginv_gmul_cancel h b, hab, gmul_one]

theorem ginv_zero : ginv 0x00#8 = 0x00#8 := by decide

theorem sbox_eq_sboxAffine_ginv (x : Byte) : sbox x = sboxAffine (ginv x) := by
  by_cases h : x = 0x00#8
  · rw [h, ginv_zero]; rfl
  · rw [← eq_ginv_of_gmul_eq_one h (gmul_sboxAffineInv_sbox x h), sboxAffine_sboxAffineInv]

/-! ### No zero divisors (40 R130) -/

theorem gmul_eq_zero_iff (a b : Byte) : gmul a b = 0x00#8 ↔ a = 0x00#8 ∨ b = 0x00#8 := by
  constructor
  · intro hab
    by_contra! ⟨ha, hb⟩
    exact hb (by rw [← ginv_gmul_cancel ha b, hab, gmul_zero])
  · rintro (rfl | rfl)
    · rw [gmul_comm, gmul_zero]
    · exact gmul_zero a

/-- The product by `k` is undone by the product by `ginv k`. -/
theorem gmul_const_bijective {k : Byte} (h : k ≠ 0x00#8) : Function.Bijective fun a => gmul a k := by
  have hcomm : (fun a => gmul a k) = gmul k := funext fun a => gmul_comm a k
  rw [hcomm]
  exact Function.bijective_iff_has_inverse.mpr ⟨gmul (ginv k), ginv_gmul_cancel h, gmul_ginv_cancel h⟩

/-! ### The inverse S-box and the multiplication tables (40 R125, R126) -/

theorem invSbox_sbox : Function.LeftInverse invSbox sbox := fun x => by revert x; decide

/-- On the finitely many bytes a left inverse is a right inverse. -/
theorem sbox_invSbox : Function.RightInverse invSbox sbox :=
  invSbox_sbox.rightInverse_of_card_le le_rfl

/-- The literal contents of the six tables, entry by entry. -/
theorem mulTables_eq_gmul : ∀ a : Byte, mul2 a = gmul a 0x02#8 ∧ mul3 a = gmul a 0x03#8 ∧ mul9 a = gmul a 0x09#8 ∧
    mul11 a = gmul a 0x0B#8 ∧ mul13 a = gmul a 0x0D#8 ∧ mul14 a = gmul a 0x0E#8 := by decide

/-! ### The statements -/

/-- Settles O12: the laws of `gmul` above; the product of the two polynomials is four closed coefficients. -/
theorem fieldArithmeticLaws : Obligations.FieldArithmeticLaws :=
  ⟨fun a b c => ⟨BitVec.xor_assoc a b c, BitVec.xor_comm a b, BitVec.xor_zero, BitVec.xor_self⟩,
    gmul_assoc, gmul_comm, gmul_one, gmul_xor, gmul_eq_zero_iff, fun _ => gmul_const_bijective, by decide⟩

/-- Settles O13: the entries of the S-box give each byte its inverse, and `a ^ 256 = a` makes `ginv` that inverse. -/
theorem sboxIsTheAffineMapOfTheInverse : Obligations.SboxIsTheAffineMapOfTheInverse :=
  ⟨fun _ h => ⟨gmul_ginv h, fun _ => eq_ginv_of_gmul_eq_one h⟩, ginv_zero,
    fun x => ⟨sbox_eq_sboxAffine_ginv x, sbox_ne_self x⟩⟩

/-- Settles O14: one direction and the products are read off the tables, the other direction follows by counting. -/
theorem tablesHoldInversesAndProducts : Obligations.TablesHoldInversesAndProducts :=
  ⟨fun x => ⟨invSbox_sbox x, sbox_invSbox x⟩, mulTables_eq_gmul⟩

end Sys2Proof.Machine
end

section
/-! `SETKEY` and the key schedule (41): what a command word leaves in the context, and which words the expansion writes. -/

namespace Sys2Proof.Machine

/-! ### SETKEY (41 R151, R158, R159) -/

/-- The legal key sizes are whole words, so the `4 * Nk` bytes that are read are the first `kbits / 8` of `KEYIN`. -/
theorem keyBytes_wordsOfBits (s : State) {kbits : Nat} (hk : Config.LegalSize kbits) :
    keyBytes s (wordsOfBits kbits) = s.keyin.toList.take (kbits / 8) := by
  have hbytes : 4 * wordsOfBits kbits = kbits / 8 := by rcases hk with rfl | rfl | rfl <;> rfl
  rw [keyBytes, bufTake, hbytes]

/-- Settles O7: the next state is that of `execSetkey_legal`; `keyedContext` holds every size exactly, since a legal size fits. -/
theorem setkeyReplacesTheContextWhole : Obligations.SetkeyReplacesTheContextWhole := by
  intro s kbits bbits hk hb
  have hnk := legalWords_of_legalSize hk
  have hnb := legalWords_of_legalSize hb
  have hnr := keyedContext_nr (keyBytes s (wordsOfBits kbits)) hnk hnb
  have hlen : scheduleLength (wordsOfBits kbits) (wordsOfBits bbits) =
      ((keyedContext (keyBytes s (wordsOfBits kbits)) (wordsOfBits kbits) (wordsOfBits bbits)).nr.toNat + 1) * (bbits / 32) := by
    rw [hnr]
    rfl
  have hexec : exec (.setkey kbits bbits) s = .next _ := execSetkey_legal hk hb s
  refine ⟨_, hexec, keyedContext_nb _ _ hnb, keyedContext_nk _ _ hnk, hnr, (keyedContext_rklen _ hnk hnb).trans hlen, ?_,
    (expandKey_length _ hnk hnb).trans hlen, rfl, exec_cmd hexec, rfl, exec_busy hexec, rfl, rfl, rfl, exec_operandsKept hexec⟩
  exact congrArg (expandKey · (wordsOfBits kbits) (wordsOfBits bbits)) (keyBytes_wordsOfBits s hk)

/-- Settles O8: `execSetkey_illegal`, the state written out field by field. -/
theorem setkeyRejectsIllegalSizes : Obligations.SetkeyRejectsIllegalSizes :=
  fun s _ _ h => execSetkey_illegal h s

/-! ### The functions of words (41 R155, R156) -/

theorem rotWord_wordOf (b0 b1 b2 b3 : Byte) : rotWord (wordOf b0 b1 b2 b3) = wordOf b1 b2 b3 b0 := by
  rw [rotWord, wordByte_wordOf_0, wordByte_wordOf_1, wordByte_wordOf_2, wordByte_wordOf_3]

theorem subWord_wordOf (b0 b1 b2 b3 : Byte) : subWord (wordOf b0 b1 b2 b3) = wordOf (sbox b0) (sbox b1) (sbox b2) (sbox b3) := by
  rw [subWord, wordByte_wordOf_0, wordByte_wordOf_1, wordByte_wordOf_2, wordByte_wordOf_3]

/-- The rotated word is the lower three bytes, then the top byte. -/
theorem rotWord_eq_append (w : Word) : rotWord w = w.extractLsb' 0 24 ++ w.extractLsb' 24 8 := by
  have hlow : wordByte w 1 ++ wordByte w 2 ++ wordByte w 3 = w.extractLsb' 0 24 := by
    rw [wordByte, wordByte, wordByte, BitVec.extractLsb'_append_extractLsb'_eq_extractLsb' (by rfl),
      BitVec.extractLsb'_append_extractLsb'_eq_extractLsb' (by rfl)]
  rw [rotWord, wordOf, hlow]
  rfl

/-- Below bit 8 the rotated word is the top byte, from bit 8 on the word moved up. -/
theorem rotWord_eq_shift_or (w : Word) : rotWord w = (w <<< 8) ||| (w >>> 24) := by
  rw [rotWord_eq_append]
  apply BitVec.eq_of_getLsbD_eq
  intro i hi
  rw [BitVec.getLsbD_append, BitVec.getLsbD_or, BitVec.getLsbD_shiftLeft, BitVec.getLsbD_ushiftRight]
  by_cases h : i < 8
  · simp [h]
  · have hhigh : 32 ≤ 24 + i := by omega
    have hmove : i - 8 < 24 := by omega
    simp [h, hi, hmove, BitVec.getLsbD_of_ge w _ hhigh]

/-- Settles O11: by bytes and by bits. -/
theorem rotWordRotatesTowardTheTopByte : Obligations.RotWordRotatesTowardTheTopByte :=
  ⟨rotWord_wordOf, rotWord_eq_shift_or⟩

/-! ### The expansion writes at the end (41 R162) -/

theorem expandFrom_extends (nk n i : Nat) (rc : Byte) (w : List Word) : w <+: expandFrom nk n i rc w := by
  induction n generalizing i rc w with
  | zero => exact ⟨[], List.append_nil w⟩
  | succ n ih => exact List.IsPrefix.trans ⟨_, rfl⟩ (ih ..)

/-- The loop run for fewer words ends on the way to more. -/
theorem expandFrom_isPrefix_of_le (nk i : Nat) (rc : Byte) (w : List Word) {m n : Nat} (h : m ≤ n) :
    expandFrom nk m i rc w <+: expandFrom nk n i rc w := by
  induction m generalizing i rc w n with
  | zero => exact expandFrom_extends ..
  | succ m ih =>
    obtain ⟨n, rfl⟩ := Nat.exists_eq_add_one.mpr (Nat.zero_lt_of_lt h)
    exact ih _ _ _ (Nat.le_of_succ_le_succ h)

theorem scheduleLength_mono (nk : Nat) {nb nb' : Nat} (h : nb ≤ nb') : scheduleLength nk nb ≤ scheduleLength nk nb' :=
  Nat.mul_le_mul (Nat.add_le_add_right (max_le_max_right nk h) 7) h

/-- Settles O10: both schedules are one loop from the same key words, and the smaller block size runs it for fewer words. -/
theorem shorterScheduleIsAPrefix : Obligations.ShorterScheduleIsAPrefix := fun _ nk _ _ _ _ _ h =>
  expandFrom_isPrefix_of_le _ _ _ _ (Nat.sub_le_sub_right (scheduleLength_mono nk h) nk)

/-! ### The recurrence (41 R154, R157)

The loop keeps a running round constant. Before index `i` it holds `RC` of the next multiple of `Nk` from `i` on, which is
`RC((i - 1) div Nk + 1)`: the constant that index `i` uses, if it uses one. -/

theorem nextRc_running {nk i : Nat} (hi : 0 < i) :
    nextRc nk i (roundConstant ((i - 1) / nk + 1)) = roundConstant (i / nk + 1) := by
  obtain ⟨i, rfl⟩ := Nat.exists_eq_add_one.mpr hi
  by_cases h : (i + 1) % nk = 0
  · rw [nextRc, if_pos h, Nat.succ_div_of_mod_eq_zero h, Nat.add_sub_cancel, roundConstant]
  · rw [nextRc, if_neg h, Nat.succ_div_of_mod_ne_zero h, Nat.add_sub_cancel]

/-- Where a round constant is used, the running one is `RC(i div Nk)`. -/
theorem scheduleWord_running {nk i : Nat} (hi : 0 < i) (w : List Word) :
    scheduleWord nk i (roundConstant ((i - 1) / nk + 1)) w = scheduleWord nk i (roundConstant (i / nk)) w := by
  obtain ⟨i, rfl⟩ := Nat.exists_eq_add_one.mpr hi
  by_cases h : (i + 1) % nk = 0
  · rw [Nat.succ_div_of_mod_eq_zero h, Nat.add_sub_cancel]
  · simp only [scheduleWord, keyTemp, if_neg h]

/-- A word reads only words before it. -/
theorem scheduleWord_append {nk i : Nat} (hnk : 0 < nk) (hi : 0 < i) (rc : Byte) {w : List Word} (h : i ≤ w.length)
    (v : List Word) : scheduleWord nk i rc (w ++ v) = scheduleWord nk i rc w := by
  rw [scheduleWord, scheduleWord, List.getD_append _ _ _ _ (by omega), List.getD_append _ _ _ _ (by omega)]

/-- Every word from index `Nk` on is the one that the words before it determine (R154). -/
def FollowsRecurrence (nk : Nat) (w : List Word) : Prop :=
  ∀ i, nk ≤ i → i < w.length → w.getD i 0 = scheduleWord nk i (roundConstant (i / nk)) w

theorem FollowsRecurrence.append_scheduleWord {nk : Nat} (hnk : 0 < nk) {w : List Word} (hw : FollowsRecurrence nk w) :
    FollowsRecurrence nk (w ++ [scheduleWord nk w.length (roundConstant (w.length / nk)) w]) := by
  intro i hi hlen
  rw [List.length_append, List.length_singleton] at hlen
  rw [scheduleWord_append hnk (by omega) _ (by omega)]
  by_cases hlast : i < w.length
  · rw [List.getD_append _ _ _ _ hlast]
    exact hw i hi hlast
  · obtain rfl : i = w.length := by omega
    rw [List.getD_append_right _ _ _ _ le_rfl, Nat.sub_self]
    rfl

theorem expandFrom_followsRecurrence {nk : Nat} (hnk : 0 < nk) (n : Nat) {w : List Word} (hlen : nk ≤ w.length)
    (hw : FollowsRecurrence nk w) :
    FollowsRecurrence nk (expandFrom nk n w.length (roundConstant ((w.length - 1) / nk + 1)) w) := by
  have hpos : 0 < w.length := by omega
  induction n generalizing w with
  | zero => exact hw
  | succ n ih =>
    rw [expandFrom, nextRc_running hpos, scheduleWord_running hpos]
    have hnext := ih (by simp; omega) (hw.append_scheduleWord hnk) (by simp)
    rwa [List.length_append, List.length_singleton, Nat.add_sub_cancel] at hnext

theorem keyWords_length (key : List Byte) (nk : Nat) : (keyWords key nk).length = nk := by simp [keyWords]

theorem expandKey_followsRecurrence (key : List Byte) {nk : Nat} (nb : Nat) (hnk : 0 < nk) :
    FollowsRecurrence nk (expandKey key nk nb) := by
  have hlen := keyWords_length key nk
  have hrc : roundConstant ((nk - 1) / nk + 1) = 0x01#8 := by rw [Nat.div_eq_of_lt (by omega)]; rfl
  have hkey : FollowsRecurrence nk (keyWords key nk) := fun i hi h => absurd h (by omega)
  have := expandFrom_followsRecurrence hnk (scheduleLength nk nb - nk) hlen.ge hkey
  rwa [hlen, hrc] at this

/-- The first `Nk` words are the key (R153). -/
theorem expandKey_getD_key (key : List Byte) {nk i : Nat} (nb : Nat) (hi : i < nk) :
    (expandKey key nk nb).getD i 0 = wordAt key i := by
  obtain ⟨v, hv⟩ := expandFrom_extends nk (scheduleLength nk nb - nk) nk 0x01#8 (keyWords key nk)
  rw [expandKey, ← hv, List.getD_append _ _ _ _ (by rwa [keyWords_length]), List.getD_eq_getElem _ _ (by rwa [keyWords_length])]
  simp [keyWords]

/-- Settles O9: every word that the loop appends follows the recurrence, and no later word changes it. -/
theorem scheduleWordsFollowTheRecurrence : Obligations.ScheduleWordsFollowTheRecurrence := by
  refine ⟨subWord_wordOf, fun key nk nb hnk hnb _ => ?_⟩
  have hlen : (expandKey key nk nb).length = (max nb nk + 6 + 1) * nb := expandKey_length key hnk hnb
  exact ⟨hlen, fun i hi => expandKey_getD_key key nb hi,
    fun i hi hlt => expandKey_followsRecurrence key nb (by omega) i hi (hlen ▸ hlt)⟩

end Sys2Proof.Machine
end

section
/-! The round transformer (42): each transformation cell by cell, and its inverse. `MixColumns` is the product of each column with
a fixed polynomial modulo `y^4 + 1` (R184), so its inverse is the product with the inverse polynomial. -/

namespace Sys2Proof.Machine

/-! ### The cells of a state -/

theorem cell_eq_columnRow {a : List Column} (r : Nat) {c : Nat} (hc : c < a.length) : cell a r c = columnRow a[c] r := by
  rw [cell, List.getD_eq_getElem _ _ hc]

/-- A state is its cells. -/
theorem eq_of_cell_eq {a b : List Column} (hlen : a.length = b.length)
    (h : ∀ r < 4, ∀ c < a.length, cell a r c = cell b r c) : a = b := by
  refine List.ext_getElem hlen fun c hc hc' => ?_
  have hrow (r : Nat) (hr : r < 4) : columnRow a[c] r = columnRow b[c] r := by
    rw [← cell_eq_columnRow r hc, ← cell_eq_columnRow r hc', h r hr c hc]
  exact Column.mk.injEq .. ▸ ⟨hrow 0 (by decide), hrow 1 (by decide), hrow 2 (by decide), hrow 3 (by decide)⟩

/-- A map of the columns that is undone column by column is undone. -/
theorem map_map_cancel {f g : Column → Column} (h : Function.LeftInverse g f) (a : List Column) : (a.map f).map g = a := by
  rw [List.map_map, h.comp_eq_id, List.map_id]

/-! ### The byte substitutions (R171, R177) -/

theorem columnRow_mapColumn (f : Byte → Byte) (x : Column) {r : Nat} (hr : r < 4) :
    columnRow (mapColumn f x) r = f (columnRow x r) := by
  match r, hr with
  | 0, _ | 1, _ | 2, _ | 3, _ => rfl

theorem cell_map_mapColumn (f : Byte → Byte) {a : List Column} {r c : Nat} (hr : r < 4) (hc : c < a.length) :
    cell (a.map (mapColumn f)) r c = f (cell a r c) := by
  rw [cell_eq_columnRow r (by rwa [List.length_map]), List.getElem_map, columnRow_mapColumn f _ hr, cell_eq_columnRow r hc]

theorem mapColumn_leftInverse {f g : Byte → Byte} (h : Function.LeftInverse g f) :
    Function.LeftInverse (mapColumn g) (mapColumn f) := fun x => by simp only [mapColumn, h _]

theorem invSubBytes_subBytes (a : List Column) : invSubBytes (subBytes a) = a :=
  map_map_cancel (mapColumn_leftInverse invSbox_sbox) a

theorem subBytes_invSubBytes (a : List Column) : subBytes (invSubBytes a) = a :=
  map_map_cancel (mapColumn_leftInverse sbox_invSbox) a

/-! ### The rotations of the rows (R172, R178) -/

theorem shiftOffset_le {nb r : Nat} (hnb : LegalWords nb) (hr : r < 4) : shiftOffset nb r ≤ nb := by
  rcases hnb with rfl | rfl | rfl <;> (revert r; decide)

theorem cell_shiftRows (a : List Column) {nb r c : Nat} (hr : r < 4) (hc : c < nb) :
    cell (shiftRows nb a) r c = cell a r ((c + shiftOffset nb r) % nb) := by
  rw [cell_eq_columnRow r (by rwa [shiftRows_length])]
  simp only [shiftRows, List.getElem_map, List.getElem_range]
  match r, hr with
  | 0, _ | 1, _ | 2, _ | 3, _ => rfl

theorem cell_invShiftRows (a : List Column) {nb r c : Nat} (hr : r < 4) (hc : c < nb) :
    cell (invShiftRows nb a) r c = cell a r ((c + nb - shiftOffset nb r) % nb) := by
  rw [cell_eq_columnRow r (by rwa [invShiftRows_length])]
  simp only [invShiftRows, List.getElem_map, List.getElem_range]
  match r, hr with
  | 0, _ | 1, _ | 2, _ | 3, _ => rfl

/-- A column moved to the right and back. -/
theorem add_mod_sub_mod {nb o c : Nat} (ho : o ≤ nb) (hc : c < nb) : ((c + nb - o) % nb + o) % nb = c := by
  rw [Nat.mod_add_mod, Nat.sub_add_cancel (by omega), Nat.add_mod_right, Nat.mod_eq_of_lt hc]

/-- A column moved to the left and back. -/
theorem sub_mod_add_mod {nb o c : Nat} (ho : o ≤ nb) (hc : c < nb) : ((c + o) % nb + nb - o) % nb = c := by
  have hsum : c + o + (nb - o) = c + nb := by omega
  rw [Nat.add_sub_assoc ho, Nat.mod_add_mod, hsum, Nat.add_mod_right, Nat.mod_eq_of_lt hc]

theorem invShiftRows_shiftRows {nb : Nat} {a : List Column} (hnb : LegalWords nb) (ha : a.length = nb) :
    invShiftRows nb (shiftRows nb a) = a := by
  have hpos : 0 < nb := by omega
  refine eq_of_cell_eq (by rw [invShiftRows_length, ha]) fun r hr c hc => ?_
  rw [invShiftRows_length] at hc
  rw [cell_invShiftRows _ hr hc, cell_shiftRows _ hr (Nat.mod_lt _ hpos), add_mod_sub_mod (shiftOffset_le hnb hr) hc]

theorem shiftRows_invShiftRows {nb : Nat} {a : List Column} (hnb : LegalWords nb) (ha : a.length = nb) :
    shiftRows nb (invShiftRows nb a) = a := by
  have hpos : 0 < nb := by omega
  refine eq_of_cell_eq (by rw [shiftRows_length, ha]) fun r hr c hc => ?_
  rw [shiftRows_length] at hc
  rw [cell_shiftRows _ hr hc, cell_invShiftRows _ hr (Nat.mod_lt _ hpos), sub_mod_add_mod (shiftOffset_le hnb hr) hc]

/-! ### The columns as polynomials (R173, R179, R184) -/

/-- The product of two columns modulo `y^4 + 1`, row `r` the coefficient of `y^r`. -/
def columnMul (k x : Column) : Column :=
  ⟨gmul k.r0 x.r0 ^^^ gmul k.r3 x.r1 ^^^ gmul k.r2 x.r2 ^^^ gmul k.r1 x.r3,
    gmul k.r1 x.r0 ^^^ gmul k.r0 x.r1 ^^^ gmul k.r3 x.r2 ^^^ gmul k.r2 x.r3,
    gmul k.r2 x.r0 ^^^ gmul k.r1 x.r1 ^^^ gmul k.r0 x.r2 ^^^ gmul k.r3 x.r3,
    gmul k.r3 x.r0 ^^^ gmul k.r2 x.r1 ^^^ gmul k.r1 x.r2 ^^^ gmul k.r0 x.r3⟩

/-- `03 y^3 + 01 y^2 + 01 y + 02`. -/
def mixPolynomial : Column := ⟨0x02#8, 0x01#8, 0x01#8, 0x03#8⟩

/-- `0B y^3 + 0D y^2 + 09 y + 0E`. -/
def invMixPolynomial : Column := ⟨0x0E#8, 0x09#8, 0x0D#8, 0x0B#8⟩

theorem mixColumn_eq_columnMul (x : Column) : mixColumn x = columnMul mixPolynomial x := by
  simp only [mixColumn, columnMul, mixPolynomial, gmul_comm _ x.r0, gmul_comm _ x.r1, gmul_comm _ x.r2,
    gmul_comm _ x.r3, mulTables_eq_gmul, gmul_one]

theorem invMixColumn_eq_columnMul (x : Column) : invMixColumn x = columnMul invMixPolynomial x := by
  simp only [invMixColumn, columnMul, invMixPolynomial, gmul_comm _ x.r0, gmul_comm _ x.r1, gmul_comm _ x.r2,
    gmul_comm _ x.r3, mulTables_eq_gmul]

theorem columnMul_assoc (l k x : Column) : columnMul l (columnMul k x) = columnMul (columnMul l k) x := by
  simp only [columnMul, gmul_xor, xor_gmul, gmul_assoc, Column.mk.injEq]
  refine ⟨?_, ?_, ?_, ?_⟩ <;> ac_rfl

theorem zero_gmul (a : Byte) : gmul 0x00#8 a = 0x00#8 := by rw [gmul_comm, gmul_zero]

theorem one_columnMul (x : Column) : columnMul ⟨0x01#8, 0x00#8, 0x00#8, 0x00#8⟩ x = x := by
  simp [columnMul, zero_gmul]

theorem invMixPolynomial_mul_mixPolynomial :
    columnMul invMixPolynomial mixPolynomial = ⟨0x01#8, 0x00#8, 0x00#8, 0x00#8⟩ := by decide

theorem mixPolynomial_mul_invMixPolynomial :
    columnMul mixPolynomial invMixPolynomial = ⟨0x01#8, 0x00#8, 0x00#8, 0x00#8⟩ := by decide

theorem invMixColumn_mixColumn : Function.LeftInverse invMixColumn mixColumn := fun x => by
  rw [mixColumn_eq_columnMul, invMixColumn_eq_columnMul, columnMul_assoc, invMixPolynomial_mul_mixPolynomial, one_columnMul]

theorem mixColumn_invMixColumn : Function.LeftInverse mixColumn invMixColumn := fun x => by
  rw [mixColumn_eq_columnMul, invMixColumn_eq_columnMul, columnMul_assoc, mixPolynomial_mul_invMixPolynomial, one_columnMul]

theorem invMixColumns_mixColumns (a : List Column) : invMixColumns (mixColumns a) = a := map_map_cancel invMixColumn_mixColumn a

theorem mixColumns_invMixColumns (a : List Column) : mixColumns (invMixColumns a) = a := map_map_cancel mixColumn_invMixColumn a

/-! ### The key addition (R174, R183) -/

theorem columnRow_addWord (x : Column) (w : Word) {r : Nat} (hr : r < 4) :
    columnRow (addWord x w) r = columnRow x r ^^^ wordByte w r := by
  match r, hr with
  | 0, _ | 1, _ | 2, _ | 3, _ => rfl

theorem addWord_addWord (x : Column) (w : Word) : addWord (addWord x w) w = x := by
  simp [addWord]

theorem roundKey_getD (ctx : Context) (k : Nat) {c : Nat} (hc : c < ctx.nb.toNat) :
    (roundKey ctx k).getD c 0 = ctx.rk.getD (k * ctx.nb.toNat + c) 0 := by
  simp [roundKey, List.getD_eq_getElem?_getD, hc]

theorem addRoundKey_getElem {ctx : Context} {a : List Column} {k : Nat} (c : Nat) (hc : c < (addRoundKey ctx a k).length)
    (hca : c < a.length) : (addRoundKey ctx a k)[c] = addWord a[c] ((roundKey ctx k).getD c 0) := by
  have hcw : c < (roundKey ctx k).length := by
    rw [addRoundKey, List.length_zipWith] at hc
    omega
  rw [List.getD_eq_getElem _ _ hcw]
  exact List.getElem_zipWith

theorem cell_addRoundKey {ctx : Context} {a : List Column} {k r c : Nat} (h : ctx.Legal) (ha : a.length = ctx.nb.toNat)
    (hk : k ≤ ctx.nr.toNat) (hr : r < 4) (hc : c < ctx.nb.toNat) :
    cell (addRoundKey ctx a k) r c = cell a r c ^^^ wordByte (ctx.rk.getD (k * ctx.nb.toNat + c) 0) r := by
  have hlen := addRoundKey_length h hk ha
  rw [cell_eq_columnRow r (hlen ▸ hc), addRoundKey_getElem c (hlen ▸ hc) (ha ▸ hc), columnRow_addWord _ _ hr,
    roundKey_getD ctx k hc, cell_eq_columnRow r (ha ▸ hc)]

theorem addRoundKey_addRoundKey {ctx : Context} {a : List Column} {k : Nat} (h : ctx.Legal) (ha : a.length = ctx.nb.toNat)
    (hk : k ≤ ctx.nr.toNat) : addRoundKey ctx (addRoundKey ctx a k) k = a := by
  have hlen := addRoundKey_length h hk ha
  refine List.ext_getElem ((addRoundKey_length h hk hlen).trans ha.symm) fun c hc hca => ?_
  have hcb : c < (addRoundKey ctx a k).length := by omega
  rw [addRoundKey_getElem c hc hcb, addRoundKey_getElem c hcb hca, addWord_addWord]

/-! ### The statement -/

/-- Settles O18: the cell formulas and the two-sided inverses above. -/
theorem roundTransformationsAreInvertible : Obligations.RoundTransformationsAreInvertible := by
  intro ctx a h ha
  have hnb : LegalWords ctx.nb.toNat := h.1
  refine ⟨fun r hr c hc => ?_, ?_, ?_, ?_, fun k hk => ⟨addRoundKey_length h hk ha, addRoundKey_addRoundKey h ha hk⟩⟩
  · have hca : c < a.length := ha ▸ hc
    exact ⟨cell_map_mapColumn sbox hr hca, cell_map_mapColumn invSbox hr hca, fun k hk => cell_addRoundKey h ha hk hr hc⟩
  · exact ⟨(subBytes_length a).trans ha, invSubBytes_subBytes a, subBytes_invSubBytes a⟩
  · exact ⟨shiftRows_length _ a, invShiftRows_shiftRows hnb ha, shiftRows_invShiftRows hnb ha⟩
  · exact ⟨(mixColumns_length a).trans ha, invMixColumns_mixColumns a, mixColumns_invMixColumns a⟩

end Sys2Proof.Machine
end

section
/-! What the statements of the round transformer (42 R172 to R185) say, from the cell formulas and the inverses above: the offsets
of the rows, the columns as coefficients of a product, the commuting of substitution and rotation, and the rounds. -/

namespace Sys2Proof.Machine

/-! ### The rows by the table of offsets (40 R128, 42 R172, R178) -/

/-- The model's table is the one of 40 R128, which differs from `0, 1, 2, 3` at `Nb = 8` alone. -/
theorem shiftOffset_eq_ite {nb r : Nat} (hnb : LegalWords nb) (hr : r < 4) :
    shiftOffset nb r = if nb = 8 then [0, 1, 3, 4].getD r 0 else [0, 1, 2, 3].getD r 0 := by
  rcases hnb with rfl | rfl | rfl <;> (revert r; decide)

theorem cell_invShiftRows_add_shiftOffset (a : List Column) {nb r c : Nat} (hnb : LegalWords nb) (hr : r < 4) (hc : c < nb) :
    cell (invShiftRows nb a) r ((c + shiftOffset nb r) % nb) = cell a r c := by
  rw [cell_invShiftRows a hr (Nat.mod_lt _ (Nat.zero_lt_of_lt hc)), sub_mod_add_mod (shiftOffset_le hnb hr) hc]

/-- Settles O16: `ShiftRows` reads the column at the offset, and `InvShiftRows` at that column reads back. -/
theorem rowsRotateByTheOffsetTable : Obligations.RowsRotateByTheOffsetTable := by
  intro nb r c a hnb _ hr hc
  rw [← shiftOffset_eq_ite hnb hr]
  exact ⟨cell_shiftRows a hr hc, cell_invShiftRows_add_shiftOffset a hnb hr hc⟩

/-! ### The coefficients of a product of columns (R184) -/

theorem columnRow_columnMul (k x : Column) {i : Nat} (hi : i < 4) :
    columnRow (columnMul k x) i =
      gmul ((columnBytes k).getD (i % 4) 0) (columnRow x 0) ^^^ gmul ((columnBytes k).getD ((i + 3) % 4) 0) (columnRow x 1) ^^^
      gmul ((columnBytes k).getD ((i + 2) % 4) 0) (columnRow x 2) ^^^
      gmul ((columnBytes k).getD ((i + 1) % 4) 0) (columnRow x 3) := by
  match i, hi with
  | 0, _ | 1, _ | 2, _ | 3, _ => rfl

theorem cell_map_columnMul (k : Column) {a : List Column} {c i : Nat} (hc : c < a.length) (hi : i < 4) :
    cell (a.map (columnMul k)) i c =
      gmul ((columnBytes k).getD (i % 4) 0) (cell a 0 c) ^^^ gmul ((columnBytes k).getD ((i + 3) % 4) 0) (cell a 1 c) ^^^
      gmul ((columnBytes k).getD ((i + 2) % 4) 0) (cell a 2 c) ^^^ gmul ((columnBytes k).getD ((i + 1) % 4) 0) (cell a 3 c) := by
  rw [cell_eq_columnRow i (by rwa [List.length_map]), List.getElem_map, columnRow_columnMul k _ hi]
  simp only [cell_eq_columnRow _ hc]

theorem mixColumns_eq_map_columnMul (a : List Column) : mixColumns a = a.map (columnMul mixPolynomial) :=
  List.map_congr_left fun x _ => mixColumn_eq_columnMul x

theorem invMixColumns_eq_map_columnMul (a : List Column) : invMixColumns a = a.map (columnMul invMixPolynomial) :=
  List.map_congr_left fun x _ => invMixColumn_eq_columnMul x

/-- Settles O17: both transformations multiply every column by one polynomial. -/
theorem mixColumnsIsThePolynomialProduct : Obligations.MixColumnsIsThePolynomialProduct := by
  refine fun a => ⟨mixColumns_length a, invMixColumns_length a, fun c i hc hi => ?_⟩
  rw [mixColumns_eq_map_columnMul, invMixColumns_eq_map_columnMul]
  exact ⟨cell_map_columnMul mixPolynomial hc hi, cell_map_columnMul invMixPolynomial hc hi⟩

/-! ### Substitution and rotation (R185)

A rotation moves the bytes of a state and a substitution replaces each of them, whatever the byte function is. -/

theorem shiftRows_map_mapColumn (f : Byte → Byte) {nb : Nat} {a : List Column} (ha : a.length = nb) :
    shiftRows nb (a.map (mapColumn f)) = (shiftRows nb a).map (mapColumn f) := by
  refine eq_of_cell_eq (by rw [List.length_map, shiftRows_length, shiftRows_length]) fun r hr c hc => ?_
  rw [shiftRows_length] at hc
  have hsource : (c + shiftOffset nb r) % nb < a.length := by rw [ha]; exact Nat.mod_lt _ (Nat.zero_lt_of_lt hc)
  rw [cell_map_mapColumn f hr (by rwa [shiftRows_length]), cell_shiftRows _ hr hc, cell_shiftRows _ hr hc,
    cell_map_mapColumn f hr hsource]

/-- From the forward rotation, which is undone on both sides. -/
theorem invShiftRows_map_mapColumn (f : Byte → Byte) {nb : Nat} {a : List Column} (hnb : LegalWords nb) (ha : a.length = nb) :
    invShiftRows nb (a.map (mapColumn f)) = (invShiftRows nb a).map (mapColumn f) :=
  calc invShiftRows nb (a.map (mapColumn f))
      = invShiftRows nb ((shiftRows nb (invShiftRows nb a)).map (mapColumn f)) := by rw [shiftRows_invShiftRows hnb ha]
    _ = invShiftRows nb (shiftRows nb ((invShiftRows nb a).map (mapColumn f))) := by
        rw [shiftRows_map_mapColumn f (invShiftRows_length nb a)]
    _ = (invShiftRows nb a).map (mapColumn f) :=
        invShiftRows_shiftRows hnb (by rw [List.length_map, invShiftRows_length])

/-- Settles O19: the S-box and its inverse are two such byte functions. -/
theorem substitutionCommutesWithRowRotation : Obligations.SubstitutionCommutesWithRowRotation :=
  fun _ _ hnb ha => ⟨shiftRows_map_mapColumn sbox ha, invShiftRows_map_mapColumn invSbox hnb ha⟩

/-! ### The rounds (R175, R176, R180, R181) -/

theorem inverseRound_forwardRound {ctx : Context} {a : List Column} {k : Nat} (h : ctx.Legal) (ha : a.length = ctx.nb.toNat)
    (hk : k ≤ ctx.nr.toNat) : inverseRound ctx (forwardRound ctx a k) k = a := by
  have hlen : (mixColumns (shiftRows ctx.nb.toNat (subBytes a))).length = ctx.nb.toNat := by
    rw [mixColumns_length, shiftRows_length]
  rw [inverseRound, forwardRound, addRoundKey_addRoundKey h hlen hk, invMixColumns_mixColumns,
    invShiftRows_shiftRows h.1 ((subBytes_length a).trans ha), invSubBytes_subBytes]

theorem inverseFinalRound_finalRound {ctx : Context} {a : List Column} (h : ctx.Legal) (ha : a.length = ctx.nb.toNat) :
    inverseFinalRound ctx (finalRound ctx a) = a := by
  rw [inverseFinalRound, finalRound, addRoundKey_addRoundKey h (shiftRows_length ..) le_rfl,
    invShiftRows_shiftRows h.1 ((subBytes_length a).trans ha), invSubBytes_subBytes]

/-- Settles O55: the compositions are the definitions; an inverse round takes the transformations off from the last to the first. -/
theorem roundsAreTheirCompositions : Obligations.RoundsAreTheirCompositions :=
  ⟨fun _ _ _ => ⟨rfl, rfl, rfl, rfl⟩,
    fun _ _ h ha => ⟨fun _ hk => inverseRound_forwardRound h ha hk, inverseFinalRound_finalRound h ha⟩⟩

end Sys2Proof.Machine
end

section
/-! The block cipher (43): the rounds in order and undone in the reverse order, and with them the commands `ENC` and `DEC`, each
the command of one block function. -/

namespace Sys2Proof.Machine

/-! ### The rounds in order (R200, R201) -/

theorem forwardRounds_eq_foldl (ctx : Context) (n : Nat) (a : List Column) :
    forwardRounds ctx n a = (List.range' 1 n).foldl (fun a k => forwardRound ctx a k) a := by
  induction n with
  | zero => rfl
  | succ n ih => rw [forwardRounds, ih, List.range'_1_concat, List.foldl_concat, Nat.add_comm 1]

theorem inverseRounds_eq_foldl (ctx : Context) (n : Nat) (a : List Column) :
    inverseRounds ctx n a = (List.range' 1 n).reverse.foldl (fun a k => inverseRound ctx a k) a := by
  induction n generalizing a with
  | zero => rfl
  | succ n ih => rw [inverseRounds, ih, List.range'_1_concat, List.reverse_concat, List.foldl_cons, Nat.add_comm 1]

/-- Settles O56: the recursions of the rounds are folds over the round numbers. -/
theorem blockFunctionsRunTheRoundsInOrder : Obligations.BlockFunctionsRunTheRoundsInOrder := fun c b h _ =>
  ⟨by rw [encryptBlock, encryptState, forwardRounds_eq_foldl], by rw [decryptBlock, decryptState, inverseRounds_eq_foldl],
    encryptBlock_length h b, decryptBlock_length h b⟩

/-! ### Encryption and decryption undo each other (R205) -/

section States
variable {ctx : Context} {a : List Column}

theorem inverseRound_length (k : Nat) : (inverseRound ctx a k).length = ctx.nb.toNat := by simp [inverseRound]

theorem inverseFinalRound_length : (inverseFinalRound ctx a).length = ctx.nb.toNat := by simp [inverseFinalRound]

theorem forwardRound_inverseRound (h : ctx.Legal) (ha : a.length = ctx.nb.toNat) {k : Nat} (hk : k ≤ ctx.nr.toNat) :
    forwardRound ctx (inverseRound ctx a k) k = a := by
  have hlen : (invMixColumns (addRoundKey ctx a k)).length = ctx.nb.toNat := by
    rw [invMixColumns_length, addRoundKey_length h hk ha]
  rw [forwardRound, inverseRound, subBytes_invSubBytes, shiftRows_invShiftRows h.1 hlen, mixColumns_invMixColumns,
    addRoundKey_addRoundKey h ha hk]

theorem finalRound_inverseFinalRound (h : ctx.Legal) (ha : a.length = ctx.nb.toNat) :
    finalRound ctx (inverseFinalRound ctx a) = a := by
  rw [finalRound, inverseFinalRound, subBytes_invSubBytes, shiftRows_invShiftRows h.1 (addRoundKey_length h le_rfl ha),
    addRoundKey_addRoundKey h ha le_rfl]

theorem inverseRounds_forwardRounds (h : ctx.Legal) (ha : a.length = ctx.nb.toNat) {n : Nat} (hn : n ≤ ctx.nr.toNat) :
    inverseRounds ctx n (forwardRounds ctx n a) = a := by
  induction n with
  | zero => rfl
  | succ n ih =>
    have hn' : n ≤ ctx.nr.toNat := Nat.le_of_succ_le hn
    rw [forwardRounds, inverseRounds, inverseRound_forwardRound h (forwardRounds_length h hn' ha) hn, ih hn']

theorem forwardRounds_inverseRounds (h : ctx.Legal) (ha : a.length = ctx.nb.toNat) {n : Nat} (hn : n ≤ ctx.nr.toNat) :
    forwardRounds ctx n (inverseRounds ctx n a) = a := by
  induction n generalizing a with
  | zero => rfl
  | succ n ih =>
    rw [inverseRounds, forwardRounds, ih (inverseRound_length _) (Nat.le_of_succ_le hn), forwardRound_inverseRound h ha hn]

theorem decryptState_encryptState (h : ctx.Legal) (ha : a.length = ctx.nb.toNat) :
    decryptState ctx (encryptState ctx a) = a := by
  have hadd : (addRoundKey ctx a 0).length = ctx.nb.toNat := addRoundKey_length h (Nat.zero_le _) ha
  rw [decryptState, encryptState, inverseFinalRound_finalRound h (forwardRounds_length h (Nat.sub_le ..) hadd),
    inverseRounds_forwardRounds h hadd (Nat.sub_le ..), addRoundKey_addRoundKey h ha (Nat.zero_le _)]

theorem encryptState_decryptState (h : ctx.Legal) (ha : a.length = ctx.nb.toNat) :
    encryptState ctx (decryptState ctx a) = a := by
  have hrounds : (inverseRounds ctx (ctx.nr.toNat - 1) (inverseFinalRound ctx a)).length = ctx.nb.toNat :=
    inverseRounds_length _ inverseFinalRound_length
  rw [encryptState, decryptState, addRoundKey_addRoundKey h hrounds (Nat.zero_le _),
    forwardRounds_inverseRounds h inverseFinalRound_length (Nat.sub_le ..), finalRound_inverseFinalRound h ha]

theorem encryptState_length (h : ctx.Legal) : (encryptState ctx a).length = ctx.nb.toNat :=
  addRoundKey_length h le_rfl (shiftRows_length ..)

theorem decryptState_length (h : ctx.Legal) : (decryptState ctx a).length = ctx.nb.toNat :=
  addRoundKey_length h (Nat.zero_le _) (inverseRounds_length _ inverseFinalRound_length)

end States

/-- Storing a state of `NB` columns and loading it again is the identity. -/
theorem loadState_storeState_of_length {a : List Column} {nb : Nat} (ha : a.length = nb) : loadState (storeState a) nb = a :=
  ha ▸ loadState_storeState a

section Blocks
variable {c : Context} {p : List Byte}

theorem decryptBlock_encryptBlock (h : c.Legal) (hp : p.length = blockBytes c) : decryptBlock c (encryptBlock c p) = p := by
  rw [decryptBlock, encryptBlock, loadState_storeState_of_length (encryptState_length h),
    decryptState_encryptState h (loadState_length ..), storeState_loadState hp]

theorem encryptBlock_decryptBlock (h : c.Legal) (hp : p.length = blockBytes c) : encryptBlock c (decryptBlock c p) = p := by
  rw [encryptBlock, decryptBlock, loadState_storeState_of_length (decryptState_length h),
    encryptState_decryptState h (loadState_length ..), storeState_loadState hp]

end Blocks

/-- Settles O20: the rounds are undone one by one, from the last to the first. -/
theorem decryptionInvertsEncryption : Obligations.DecryptionInvertsEncryption := fun _ p h hp =>
  ⟨encryptBlock_length h p, decryptBlock_length h p, decryptBlock_encryptBlock h hp, encryptBlock_decryptBlock h hp⟩

/-! ### ENC and DEC (R202, R203) -/

@[simp] theorem srcBlock_zero (s : State) : srcBlock s 0 = s.src.toNat := by simp [srcBlock]

@[simp] theorem dstBlock_zero (s : State) : dstBlock s 0 = s.dst.toNat := by simp [dstBlock]

/-- The command `i` puts one block through `f`, which keeps the block size of a context of 10 R25. -/
structure IsCommandOf (i : Instr) (f : Context → List Byte → List Byte) : Prop where
  exec_eq : ∀ s, exec i s = blockCommand f (s.setCmd (encode i))
  length : ∀ {c : Context}, c.Legal → ∀ p, (f c p).length = blockBytes c

theorem enc_isCommandOf : IsCommandOf .enc encryptBlock := ⟨fun _ => rfl, encryptBlock_length⟩

theorem dec_isCommandOf : IsCommandOf .dec decryptBlock := ⟨fun _ => rfl, decryptBlock_length⟩

/-- A block read where it was just written, its length known. -/
theorem memRead_memWrite_of_length (m : List Host.Cell) (a : Nat) {v : List Byte} {n : Nat} (hv : v.length = n) :
    memRead (memWrite m a v) a n = v := hv ▸ memRead_memWrite_same m a v

section Transform
variable {f : Context → List Byte → List Byte} {s : State}

/-- The output block is the block function of the input block as it was read, whether or not the two overlap (20 R73). -/
theorem memRead_transformBlock (hf : ∀ p, (f s.ctx p).length = blockBytes s.ctx) :
    memRead (transformBlock f s).dbuf (dstBlock s 0) (blockBytes s.ctx) =
      f s.ctx (memRead s.dbuf (srcBlock s 0) (blockBytes s.ctx)) :=
  memRead_memWrite_of_length _ _ (hf _)

theorem memGet_transformBlock_outside (hf : ∀ p, (f s.ctx p).length = blockBytes s.ctx) {x : Nat}
    (hx : x < dstBlock s 0 ∨ dstBlock s 0 + blockBytes s.ctx ≤ x) :
    memGet (transformBlock f s).dbuf x = memGet s.dbuf x :=
  memGet_memWrite_outside _ _ _ (by rwa [hf])

end Transform

namespace IsCommandOf
variable {i : Instr} {f : Context → List Byte → List Byte} {s t : State}

/-- In a keyed context with both blocks inside `DBUF` no check fails. -/
theorem exec_runs (hi : IsCommandOf i f) (h : s.Ready) (hsrc : s.src.toNat + 4 * s.ctx.nb.toNat ≤ 4096)
    (hdst : s.dst.toNat + 4 * s.ctx.nb.toNat ≤ 4096) :
    exec i s = .next ((transformBlock f (s.setCmd (encode i))).finish .ok) :=
  (hi.exec_eq s).trans
    (blockCommand_runs f (s := s.setCmd (encode i)) h (not_or.2 ⟨Nat.not_lt.2 hsrc, Nat.not_lt.2 hdst⟩))

/-- The whole effect of a command of one block: its result and its frame. -/
theorem completes (hi : IsCommandOf i f) (h : s.Ready) (hsrc : s.src.toNat + 4 * s.ctx.nb.toNat ≤ 4096)
    (hdst : s.dst.toNat + 4 * s.ctx.nb.toNat ≤ 4096) :
    ∃ t, exec i s = .next t ∧ t.cmd = encode i ∧ t.err = 0 ∧ t.busy = false ∧
      memRead t.dbuf (dstBlock s 0) (blockBytes s.ctx) = f s.ctx (memRead s.dbuf (srcBlock s 0) (blockBytes s.ctx)) ∧
      (∀ a, a < dstBlock s 0 ∨ dstBlock s 0 + blockBytes s.ctx ≤ a → memGet t.dbuf a = memGet s.dbuf a) ∧
      t.ctx = s.ctx ∧ t.cr0 = s.cr0 ∧ t.cr1 = s.cr1 ∧ OperandsKept s t := by
  have hexec := hi.exec_runs h hsrc hdst
  have hf := hi.length h.2
  exact ⟨_, hexec, exec_cmd hexec, rfl, exec_busy hexec, memRead_transformBlock (s := s.setCmd (encode i)) hf,
    fun _ => memGet_transformBlock_outside (s := s.setCmd (encode i)) hf, rfl, rfl, rfl, exec_operandsKept hexec⟩

/-- A run without an error leaves the block function of the input block at `DST`. -/
theorem output (hi : IsCommandOf i f) (h : exec i s = .next t) (he : t.err = 0) :
    memRead t.dbuf (dstBlock s 0) (blockBytes s.ctx) = f s.ctx (memRead s.dbuf (srcBlock s 0) (blockBytes s.ctx)) := by
  rw [hi.exec_eq] at h
  rcases blockCommand_cases h with ⟨-, rfl⟩ | ⟨-, -, rfl⟩ | ⟨⟨-, hl⟩, -, rfl⟩
  · exact absurd he (by simp [errCode])
  · exact absurd he (by simp [errCode])
  · exact memRead_transformBlock (s := s.setCmd (encode i)) (hi.length hl)

end IsCommandOf

/-- Settles O21: `ENC` is the command of `EncryptBlock`. -/
theorem encEncryptsOneBlock : Obligations.EncEncryptsOneBlock := fun _ => enc_isCommandOf.completes

/-- Settles O22: `DEC` is the command of `DecryptBlock`. -/
theorem decDecryptsOneBlock : Obligations.DecDecryptsOneBlock := fun _ => dec_isCommandOf.completes

/-- Settles O24: both output blocks are the same function of the context and the input block. -/
theorem blockResultDependsOnContextAndInput : Obligations.BlockResultDependsOnContextAndInput := by
  intro i s s' t t' hi h h' he he' hctx hin
  obtain ⟨f, hf⟩ : ∃ f, IsCommandOf i f := by
    rcases hi with rfl | rfl
    · exact ⟨_, enc_isCommandOf⟩
    · exact ⟨_, dec_isCommandOf⟩
  have hout := hf.output h he
  have hout' := hf.output h' he'
  simp only [srcBlock_zero, dstBlock_zero, ← hctx, blockBytes] at hout hout'
  rw [hout, hout', hin]

/-- Settles O23: `DEC` reads the block that `ENC` wrote, in the same context, and writes to where `ENC` read. -/
theorem decAfterEncRestoresTheBlock : Obligations.DecAfterEncRestoresTheBlock := by
  intro s h hsrc hdst
  obtain ⟨t, hexec, -, -, -, henc, -, hctx, -⟩ := encEncryptsOneBlock s h hsrc hdst
  have hback : ({ t with src := s.dst, dst := s.src } : State).Ready := by rwa [State.Ready, hctx]
  obtain ⟨u, hexec', -, herr, -, hdec, -⟩ := decDecryptsOneBlock _ hback (by rwa [hctx]) (by rwa [hctx])
  simp only [srcBlock_zero, dstBlock_zero, hctx] at henc hdec
  refine ⟨t, u, hexec, hexec', herr, ?_⟩
  calc memRead u.dbuf s.src.toNat (blockBytes s.ctx)
      = decryptBlock s.ctx (memRead t.dbuf s.dst.toNat (blockBytes s.ctx)) := hdec
    _ = decryptBlock s.ctx (encryptBlock s.ctx (memRead s.dbuf s.src.toNat (blockBytes s.ctx))) := by rw [henc]
    _ = memRead s.dbuf s.src.toNat (blockBytes s.ctx) := decryptBlock_encryptBlock h.2 (memRead_length ..)

end Sys2Proof.Machine
end

section
/-! CBC chaining (44): what `CbcEncrypt` and `CbcDecrypt` share, as one mode of chaining; the commands that run a mode over
`DBUF`; and from both what `CBCE` and `CBCD` do. -/

namespace Sys2Proof.Machine

/-! ### Adjacent blocks of `DBUF` -/

theorem memRead_add (m : List Host.Cell) (a k l : Nat) : memRead m a (k + l) = memRead m a k ++ memRead m (a + k) l := by
  simp [memRead, List.range_add, Function.comp_def, Nat.add_assoc]

theorem memRead_drop_take (m : List Host.Cell) (a : Nat) {k n l : Nat} (h : k + n ≤ l) :
    ((memRead m a l).drop k).take n = memRead m (a + k) n := by
  obtain ⟨rest, rfl⟩ := Nat.exists_eq_add_of_le h
  rw [Nat.add_assoc, memRead_add, memRead_add, List.drop_left' (memRead_length ..), List.take_left' (memRead_length ..)]

/-! ### Block by block: a chaining mode (R216, R217) -/

theorem xorBytes_length {x y : List Byte} {n : Nat} (hx : x.length = n) (hy : y.length = n) : (xorBytes x y).length = n := by
  simp [xorBytes, hx, hy]

theorem xorBytes_xorBytes_cancel {x y : List Byte} (h : x.length = y.length) : xorBytes (xorBytes x y) y = x :=
  List.ext_getElem (by simp [xorBytes, h]) fun i _ _ => by simp [xorBytes]

theorem drop_drop_mul (x : List Byte) (n k : Nat) : (x.drop n).drop (k * n) = x.drop ((k + 1) * n) := by
  rw [List.drop_drop, Nat.succ_mul, Nat.add_comm]

/-- Of `m + 1` blocks the first is one and the rest are `m`. -/
theorem length_take_drop_of_succ_mul {x : List Byte} {m n : Nat} (hx : x.length = (m + 1) * n) :
    (x.take n).length = n ∧ (x.drop n).length = m * n := by
  rw [Nat.succ_mul] at hx
  rw [List.length_take, List.length_drop, hx, Nat.add_sub_cancel]
  exact ⟨Nat.min_eq_left (Nat.le_add_left ..), rfl⟩

/-- What was put into a buffer, its length known. -/
theorem bufTake_bufPut_of_length {n k : Nat} (v : Vector Byte n) {xs : List Byte} (hxs : xs.length = k) (hk : k ≤ n) :
    bufTake (bufPut v xs) k = xs := by
  subst hxs
  exact bufTake_bufPut v hk

theorem drop_bufPut_of_length {n k : Nat} (v : Vector Byte n) {xs : List Byte} (hxs : xs.length = k) (hk : k ≤ n) :
    (bufPut v xs).toList.drop k = v.toList.drop k := by
  subst hxs
  exact bufPut_drop v hk

/-- How a mode makes, from a chaining value and an input block, the output block and the next chaining value; all of them are
blocks in a context of 10 R25. -/
structure ChainingMode where
  output : Context → List Byte → List Byte → List Byte
  chain : Context → List Byte → List Byte → List Byte
  output_length : ∀ {c : Context} {r x : List Byte}, c.Legal → r.length = blockBytes c → x.length = blockBytes c →
    (output c r x).length = blockBytes c
  chain_length : ∀ {c : Context} {r x : List Byte}, c.Legal → x.length = blockBytes c → (chain c r x).length = blockBytes c

/-- The chaining of `CbcEncrypt`: the register takes the output block (R216). -/
def cbcEncryption : ChainingMode where
  output c r x := encryptBlock c (xorBytes x r)
  chain c r x := encryptBlock c (xorBytes x r)
  output_length h _ _ := encryptBlock_length h _
  chain_length h _ := encryptBlock_length h _

/-- The chaining of `CbcDecrypt`: the register takes the input block (R217). -/
def cbcDecryption : ChainingMode where
  output c r x := xorBytes (decryptBlock c x) r
  chain _ _ x := x
  output_length h hr _ := xorBytes_length (decryptBlock_length h _) hr
  chain_length _ hx := hx

namespace ChainingMode
variable (M : ChainingMode)

/-- The output and the last chaining value of a mode over `m` blocks. -/
def message (M : ChainingMode) (c : Context) : Nat → List Byte → List Byte → List Byte × List Byte
  | 0, r, _ => ([], r)
  | m + 1, r, x =>
    let rest := M.message c m (M.chain c r (x.take (blockBytes c))) (x.drop (blockBytes c))
    (M.output c r (x.take (blockBytes c)) ++ rest.1, rest.2)

theorem cbcEncryption_message (c : Context) (m : Nat) (r x : List Byte) :
    cbcEncryption.message c m r x = cbcEncrypt c m r x := by
  induction m generalizing r x with
  | zero => rfl
  | succ m ih => rw [message, ih]; rfl

theorem cbcDecryption_message (c : Context) (m : Nat) (r x : List Byte) :
    cbcDecryption.message c m r x = cbcDecrypt c m r x := by
  induction m generalizing r x with
  | zero => rfl
  | succ m ih => rw [message, ih]; rfl

/-- The last block may be taken off instead of the first. -/
theorem message_succ_last (c : Context) (m : Nat) (r x : List Byte) :
    M.message c (m + 1) r x =
      ((M.message c m r x).1 ++
          M.output c (M.message c m r x).2 ((x.drop (m * blockBytes c)).take (blockBytes c)),
        M.chain c (M.message c m r x).2 ((x.drop (m * blockBytes c)).take (blockBytes c))) := by
  induction m generalizing r x with
  | zero => simp [message]
  | succ m ih =>
    rw [message, ih, drop_drop_mul, message, List.append_assoc]

/-! ### Blocks of `DBUF` (R218, R220) -/

/-- Block `i` of a chained command: the whole block is read, then the output block and the register are written (20 R73). -/
def block (cr : ChainReg) (i : Nat) (s : State) : State :=
  let inp := memRead s.dbuf (srcBlock s i) (blockBytes s.ctx)
  setChainValue (s.setDbuf (memWrite s.dbuf (dstBlock s i) (M.output s.ctx (chainValue s cr) inp))) cr
    (M.chain s.ctx (chainValue s cr) inp)

theorem cbcEncryption_block (cr : ChainReg) : cbcEncryption.block cr = cbceBlock cr := rfl

theorem cbcDecryption_block (cr : ChainReg) : cbcDecryption.block cr = cbcdBlock cr := rfl

section Block
variable (cr : ChainReg) (i : Nat) (s : State)

@[simp] theorem block_ctx : (M.block cr i s).ctx = s.ctx := by simp [block]
@[simp] theorem block_src : (M.block cr i s).src = s.src := by simp [block]
@[simp] theorem block_dst : (M.block cr i s).dst = s.dst := by simp [block]
@[simp] theorem block_srcBlock (j : Nat) : srcBlock (M.block cr i s) j = srcBlock s j := by simp [srcBlock]
@[simp] theorem block_dstBlock (j : Nat) : dstBlock (M.block cr i s) j = dstBlock s j := by simp [dstBlock]

theorem block_dbuf :
    (M.block cr i s).dbuf = memWrite s.dbuf (dstBlock s i)
      (M.output s.ctx (chainValue s cr) (memRead s.dbuf (srcBlock s i) (blockBytes s.ctx))) := by
  rw [block, setChainValue_dbuf, State.setDbuf_dbuf]

theorem block_cr_same :
    (M.block cr i s).cr cr =
      bufPut (s.cr cr) (M.chain s.ctx (chainValue s cr) (memRead s.dbuf (srcBlock s i) (blockBytes s.ctx))) := by
  rw [block, setChainValue_cr_same, State.setDbuf_cr]

theorem block_cr_other {cr' : ChainReg} (h : cr' ≠ cr) : (M.block cr i s).cr cr' = s.cr cr' := by
  rw [block, setChainValue_cr_other _ h, State.setDbuf_cr]

end Block

section Run
variable (cr : ChainReg) {s : State}

theorem block_output_length (h : s.ctx.Legal) (a : Nat) :
    (M.output s.ctx (chainValue s cr) (memRead s.dbuf a (blockBytes s.ctx))).length = blockBytes s.ctx :=
  M.output_length h (chainValue_length h cr) (memRead_length ..)

theorem block_writesBlocks : WritesBlocks (M.block cr) where
  ctx := M.block_ctx cr
  dst := M.block_dst cr
  dbuf i s h := ⟨_, M.block_output_length cr h _, M.block_dbuf cr i s⟩

/-- After a block the register holds the next chaining value, and its other bytes are as before (R225). -/
theorem block_register (h : s.ctx.Legal) (i : Nat) :
    chainValue (M.block cr i s) cr =
        M.chain s.ctx (chainValue s cr) (memRead s.dbuf (srcBlock s i) (blockBytes s.ctx)) ∧
      ((M.block cr i s).cr cr).toList.drop (blockBytes s.ctx) = (s.cr cr).toList.drop (blockBytes s.ctx) := by
  have hlen : (M.chain s.ctx (chainValue s cr) (memRead s.dbuf (srcBlock s i) (blockBytes s.ctx))).length = blockBytes s.ctx :=
    M.chain_length h (memRead_length ..)
  have hfits : blockBytes s.ctx ≤ 32 := by have := blockBytes_legal h; omega
  rw [chainValue, block_ctx, block_cr_same]
  exact ⟨bufTake_bufPut_of_length _ hlen hfits, drop_bufPut_of_length _ hlen hfits⟩

@[simp] theorem runBlocks_ctx (n : Nat) (s : State) : (runBlocks (M.block cr) n s).ctx = s.ctx :=
  runBlocks_keeps State.ctx (M.block_ctx cr) n s

@[simp] theorem runBlocks_srcBlock (n : Nat) (s : State) (i : Nat) : srcBlock (runBlocks (M.block cr) n s) i = srcBlock s i :=
  runBlocks_keeps (srcBlock · i) (fun j s => M.block_srcBlock cr j s i) n s

@[simp] theorem runBlocks_dstBlock (n : Nat) (s : State) (i : Nat) : dstBlock (runBlocks (M.block cr) n s) i = dstBlock s i :=
  runBlocks_keeps (dstBlock · i) (fun j s => M.block_dstBlock cr j s i) n s

theorem runBlocks_cr_other {cr' : ChainReg} (h : cr' ≠ cr) (n : Nat) (s : State) :
    (runBlocks (M.block cr) n s).cr cr' = s.cr cr' :=
  runBlocks_keeps (State.cr · cr') (fun i s => M.block_cr_other cr i s h) n s

theorem runBlocks_cr_drop (h : s.ctx.Legal) (n : Nat) :
    ((runBlocks (M.block cr) n s).cr cr).toList.drop (blockBytes s.ctx) = (s.cr cr).toList.drop (blockBytes s.ctx) := by
  induction n with
  | zero => rfl
  | succ n ih =>
    have hblock := (M.block_register cr (s := runBlocks (M.block cr) n s) (by rwa [runBlocks_ctx]) n).2
    rw [runBlocks_ctx] at hblock
    rw [runBlocks, hblock, ih]

theorem memGet_runBlocks_outside (h : s.ctx.Legal) {a n : Nat}
    (ha : ∀ i < n, a < dstBlock s i ∨ dstBlock s i + blockBytes s.ctx ≤ a) :
    memGet (runBlocks (M.block cr) n s).dbuf a = memGet s.dbuf a := by
  induction n with
  | zero => rfl
  | succ n ih =>
    have hlen := M.block_output_length cr (s := runBlocks (M.block cr) n s) (by rwa [runBlocks_ctx])
    have hout := ha n (Nat.lt_succ_self n)
    rw [runBlocks, block_dbuf, memGet_memWrite_outside, ih fun i hi => ha i (Nat.lt_succ_of_lt hi)]
    rwa [hlen, runBlocks_ctx, runBlocks_dstBlock]

end Run

/-! ### The output of a run that its own output does not overtake (20 R73) -/

section Output
variable (cr : ChainReg) {s : State} {n N : Nat}

/-- Where the overlap is harmless, and for a single block always, input block `n` is still as it was when the command reaches
it. -/
theorem memRead_runBlocks_input (h : s.ctx.Legal) (hn : n < N)
    (hover : HarmlessOverlap s (N * blockBytes s.ctx) ∨ N ≤ 1) :
    memRead (runBlocks (M.block cr) n s).dbuf (srcBlock s n) (blockBytes s.ctx) =
      memRead s.dbuf (srcBlock s n) (blockBytes s.ctx) := by
  by_cases hfirst : n = 0
  · rw [hfirst, runBlocks]
  · obtain ⟨v, hv, hm⟩ := runBlocks_dbuf (M.block_writesBlocks cr) h n
    have hle : n * blockBytes s.ctx + blockBytes s.ctx ≤ N * blockBytes s.ctx :=
      Nat.succ_mul .. ▸ Nat.mul_le_mul_right _ hn
    rw [hm, memRead_memWrite_outside]
    rw [srcBlock, hv]
    omega

theorem memRead_runBlocks_succ (h : s.ctx.Legal) (n : Nat) :
    memRead (runBlocks (M.block cr) (n + 1) s).dbuf s.dst.toNat ((n + 1) * blockBytes s.ctx) =
      memRead (runBlocks (M.block cr) n s).dbuf s.dst.toNat (n * blockBytes s.ctx) ++
        M.output s.ctx (chainValue (runBlocks (M.block cr) n s) cr)
          (memRead (runBlocks (M.block cr) n s).dbuf (srcBlock s n) (blockBytes s.ctx)) := by
  have hlen := M.block_output_length cr (s := runBlocks (M.block cr) n s) (by rwa [runBlocks_ctx]) (srcBlock s n)
  rw [runBlocks_ctx] at hlen
  rw [runBlocks, block_dbuf, runBlocks_ctx, runBlocks_srcBlock, runBlocks_dstBlock, Nat.succ_mul, memRead_add, ← dstBlock,
    memRead_memWrite_of_length _ _ hlen, memRead_memWrite_outside _ _ _ (.inl (by rw [dstBlock]))]

theorem chainValue_runBlocks_succ (h : s.ctx.Legal) (n : Nat) :
    chainValue (runBlocks (M.block cr) (n + 1) s) cr =
      M.chain s.ctx (chainValue (runBlocks (M.block cr) n s) cr)
        (memRead (runBlocks (M.block cr) n s).dbuf (srcBlock s n) (blockBytes s.ctx)) := by
  have hreg := (M.block_register cr (s := runBlocks (M.block cr) n s) (by rwa [runBlocks_ctx]) n).1
  rwa [runBlocks_ctx, runBlocks_srcBlock] at hreg

/-- `n` blocks of the command are `n` blocks of the message: the output so far lies at `DST`, and the register holds the last
chaining value. -/
theorem runBlocks_eq_message (h : s.ctx.Legal) (hover : HarmlessOverlap s (N * blockBytes s.ctx) ∨ N ≤ 1) (hn : n ≤ N) :
    (memRead (runBlocks (M.block cr) n s).dbuf s.dst.toNat (n * blockBytes s.ctx),
        chainValue (runBlocks (M.block cr) n s) cr) =
      M.message s.ctx n (chainValue s cr) (memRead s.dbuf s.src.toNat (N * blockBytes s.ctx)) := by
  induction n with
  | zero => simp [message, memRead, runBlocks]
  | succ n ih =>
    have hblock : n * blockBytes s.ctx + blockBytes s.ctx ≤ N * blockBytes s.ctx :=
      Nat.succ_mul .. ▸ Nat.mul_le_mul_right _ hn
    rw [message_succ_last, ← ih (Nat.le_of_succ_le hn), memRead_drop_take _ _ hblock, ← srcBlock,
      memRead_runBlocks_succ _ _ h, chainValue_runBlocks_succ _ _ h, memRead_runBlocks_input _ _ h hn hover]

end Output

end ChainingMode

/-! ### Where a run depends on the state -/

/-- Two states agree on the data of a chained command: what it writes, and the context. -/
structure SameData (s t : State) : Prop where
  ctx : t.ctx = s.ctx
  dbuf : t.dbuf = s.dbuf
  cr : ∀ cr, t.cr cr = s.cr cr

theorem SameData.refl (s : State) : SameData s s := ⟨rfl, rfl, fun _ => rfl⟩

theorem SameData.chainValue {s t : State} (h : SameData s t) (cr : ChainReg) :
    Machine.chainValue t cr = Machine.chainValue s cr := by
  rw [Machine.chainValue, h.cr, h.ctx, Machine.chainValue]

namespace ChainingMode
variable {M : ChainingMode} {cr : ChainReg}

/-- A block depends on the data and on its two addresses only. -/
theorem block_sameData {s t : State} {i j : Nat} (h : SameData s t) (hsrc : srcBlock t j = srcBlock s i)
    (hdst : dstBlock t j = dstBlock s i) : SameData (M.block cr i s) (M.block cr j t) where
  ctx := by rw [block_ctx, block_ctx, h.ctx]
  dbuf := by rw [block_dbuf, block_dbuf, h.dbuf, h.ctx, h.chainValue, hsrc, hdst]
  cr n := by
    by_cases hn : n = cr
    · subst hn
      rw [block_cr_same, block_cr_same, h.cr, h.dbuf, h.ctx, h.chainValue, hsrc]
    · rw [block_cr_other _ _ _ _ hn, block_cr_other _ _ _ _ hn, h.cr]

/-- The state `s` has the data that `m` blocks from the state `u` leave, and its operands go on from there (R222). -/
structure Continues (M : ChainingMode) (cr : ChainReg) (u : State) (m : Nat) (s : State) : Prop where
  data : SameData (runBlocks (M.block cr) m u) s
  src : ∀ i, srcBlock s i = srcBlock u (m + i)
  dst : ∀ i, dstBlock s i = dstBlock u (m + i)

/-- From the data that `m` blocks leave, `SRC` and `DST` rewritten to block `m` go on there, whatever the length. -/
theorem continues_of_operands {u t : State} {m : Nat} {src dst : Word} (len : Word)
    (h : SameData (runBlocks (M.block cr) m u) t) (hsrc : src.toNat = srcBlock u m) (hdst : dst.toNat = dstBlock u m) :
    M.Continues cr u m { t with src := src, dst := dst, len := len } where
  data := ⟨h.ctx, h.dbuf, fun n => by rw [← h.cr]; cases n <;> rfl⟩
  src i := by
    have hctx : t.ctx = u.ctx := h.ctx.trans (M.runBlocks_ctx cr m u)
    simp only [srcBlock, hsrc, hctx, Nat.add_mul, Nat.add_assoc]
  dst i := by
    have hctx : t.ctx = u.ctx := h.ctx.trans (M.runBlocks_ctx cr m u)
    simp only [dstBlock, hdst, hctx, Nat.add_mul, Nat.add_assoc]

theorem Continues.runBlocks {u s : State} {m : Nat} (h : M.Continues cr u m s) (n : Nat) :
    SameData (runBlocks (M.block cr) (m + n) u) (runBlocks (M.block cr) n s) := by
  induction n with
  | zero => exact h.data
  | succ n ih =>
    refine block_sameData ih ?_ ?_
    · rw [runBlocks_srcBlock, runBlocks_srcBlock]
      exact h.src n
    · rw [runBlocks_dstBlock, runBlocks_dstBlock]
      exact h.dst n

/-! ### The commands that run a mode (R218, R220) -/

/-- The command `i` runs the blocks of the mode on the register `cr`. -/
structure RunBy (M : ChainingMode) (cr : ChainReg) (i : Instr) : Prop where
  exec_eq : ∀ s, exec i s = chainedCommand (M.block cr) (s.setCmd (encode i))

theorem cbce_runs (cr : ChainReg) : cbcEncryption.RunBy cr (.cbce cr) :=
  ⟨fun _ => by rw [cbcEncryption_block]; rfl⟩

theorem cbcd_runs (cr : ChainReg) : cbcDecryption.RunBy cr (.cbcd cr) :=
  ⟨fun _ => by rw [cbcDecryption_block]; rfl⟩

theorem exists_runBy {i : Instr} (h : ∃ cr, i = .cbce cr ∨ i = .cbcd cr) :
    ∃ (M : ChainingMode) (cr : ChainReg), M.RunBy cr i := by
  obtain ⟨cr, rfl | rfl⟩ := h
  · exact ⟨_, cr, cbce_runs cr⟩
  · exact ⟨_, cr, cbcd_runs cr⟩

end ChainingMode

/-- A chained command passes every check: keyed, whole blocks only, both buffers inside `DBUF` (R219, 20 R66). -/
structure State.ChainReady (s : State) : Prop where
  ready : s.Ready
  whole : s.len.toNat % blockBytes s.ctx = 0
  src : s.src.toNat + s.len.toNat ≤ Config.dbufBytes
  dst : s.dst.toNat + s.len.toNat ≤ Config.dbufBytes

namespace ChainingMode
variable {M : ChainingMode} {cr : ChainReg} {i : Instr} {s : State}

/-- A command that passes its checks runs its blocks. -/
theorem RunBy.exec_eq_runBlocks (hi : M.RunBy cr i) (h : s.ChainReady) :
    exec i s = .next ((runBlocks (M.block cr) (blockCount s) (s.setCmd (encode i))).finish .ok) := by
  rw [hi.exec_eq]
  exact chainedCommand_runs _ (s := s.setCmd (encode i)) h.ready (not_not.2 h.whole)
    (not_or.2 ⟨Nat.not_lt.2 h.src, Nat.not_lt.2 h.dst⟩)

/-- A command whose operands go on where `m` blocks from `u` stopped leaves the data of all the blocks from `u`. -/
theorem RunBy.continues (hi : M.RunBy cr i) (h : s.ChainReady) {u : State} {m : Nat} (hu : M.Continues cr u m s) :
    ∃ t, exec i s = .next t ∧ t.err = 0 ∧ SameData (runBlocks (M.block cr) (m + blockCount s) u) t := by
  have hcmd : M.Continues cr u m (s.setCmd (encode i)) :=
    ⟨⟨hu.data.ctx, hu.data.dbuf, fun n => (State.setCmd_cr s _ n).trans (hu.data.cr n)⟩, hu.src, hu.dst⟩
  obtain ⟨hctx, hdbuf, hcr⟩ := hcmd.runBlocks (blockCount s)
  exact ⟨_, hi.exec_eq_runBlocks h, rfl, hctx, hdbuf, fun n => (State.finish_cr _ _ n).trans (hcr n)⟩

theorem RunBy.runs (hi : M.RunBy cr i) (h : s.ChainReady) :
    ∃ t, exec i s = .next t ∧ t.err = 0 ∧ SameData (runBlocks (M.block cr) (blockCount s) s) t := by
  have hrun := hi.continues h
    (continues_of_operands (m := 0) s.len (.refl s) (srcBlock_zero s).symm (dstBlock_zero s).symm)
  rwa [Nat.zero_add] at hrun

/-- The whole effect of a chained command: its result and its frame. -/
theorem RunBy.completes (hi : M.RunBy cr i) (h : s.ChainReady) :
    ∃ t, exec i s = .next t ∧ t.cmd = encode i ∧ t.err = 0 ∧ t.busy = false ∧
      t.dbuf = (runBlocks (M.block cr) (blockCount s) s).dbuf ∧
      chainValue t cr = chainValue (runBlocks (M.block cr) (blockCount s) s) cr ∧
      (∀ a, (∀ i < blockCount s, a < dstBlock s i ∨ dstBlock s i + blockBytes s.ctx ≤ a) →
        memGet t.dbuf a = memGet s.dbuf a) ∧
      (t.cr cr).toList.drop (blockBytes s.ctx) = (s.cr cr).toList.drop (blockBytes s.ctx) ∧
      (∀ cr', cr' ≠ cr → t.cr cr' = s.cr cr') ∧
      t.ctx = s.ctx ∧ OperandsKept s t := by
  obtain ⟨t, hexec, herr, hdata⟩ := hi.runs h
  have hl := h.ready.2
  exact ⟨t, hexec, exec_cmd hexec, herr, exec_busy hexec, hdata.dbuf, hdata.chainValue cr,
    fun a ha => hdata.dbuf ▸ M.memGet_runBlocks_outside cr hl ha, hdata.cr cr ▸ M.runBlocks_cr_drop cr hl _,
    fun cr' hne => (hdata.cr cr').trans (M.runBlocks_cr_other cr hne _ s), hdata.ctx.trans (M.runBlocks_ctx cr _ s),
    exec_operandsKept hexec⟩

/-- Where its buffers do not overlap harmfully, a chained command computes its mode. -/
theorem RunBy.computes (hi : M.RunBy cr i) (h : s.ChainReady)
    (hover : HarmlessOverlap s s.len.toNat ∨ s.len.toNat ≤ blockBytes s.ctx) :
    ∃ t, exec i s = .next t ∧
      (memRead t.dbuf s.dst.toNat s.len.toNat, chainValue t cr) =
        M.message s.ctx (s.len.toNat / blockBytes s.ctx) (chainValue s cr) (memRead s.dbuf s.src.toNat s.len.toNat) := by
  obtain ⟨t, hexec, -, hdata⟩ := hi.runs h
  have hl := h.ready.2
  have hlen : blockCount s * blockBytes s.ctx = s.len.toNat := Nat.div_mul_cancel (Nat.dvd_of_mod_eq_zero h.whole)
  have hover' : HarmlessOverlap s (blockCount s * blockBytes s.ctx) ∨ blockCount s ≤ 1 := by
    rw [hlen]
    exact hover.imp_right fun hle => Nat.div_le_of_le_mul (by rwa [Nat.mul_one])
  have hmsg := M.runBlocks_eq_message cr hl hover' (le_refl _)
  rw [hlen] at hmsg
  exact ⟨t, hexec, by rw [hdata.dbuf, hdata.chainValue]; exact hmsg⟩

end ChainingMode

/-- Settles O25: `CBCE` runs the mode of `CbcEncrypt`. -/
theorem cbceRunsItsBlocks : Obligations.CbceRunsItsBlocks := fun _ cr h hlen hsrc hdst =>
  (ChainingMode.cbce_runs cr).completes ⟨h, hlen, hsrc, hdst⟩

/-- Settles O26: `CBCD` runs the mode of `CbcDecrypt`. -/
theorem cbcdRunsItsBlocks : Obligations.CbcdRunsItsBlocks := fun _ cr h hlen hsrc hdst =>
  (ChainingMode.cbcd_runs cr).completes ⟨h, hlen, hsrc, hdst⟩

/-- Settles O27: no input block is overwritten before it is read, so the run of blocks is the message of the mode. -/
theorem cbceComputesCbcEncryption : Obligations.CbceComputesCbcEncryption := by
  intro s cr h hlen hsrc hdst hover
  rw [← ChainingMode.cbcEncryption_message]
  exact (ChainingMode.cbce_runs cr).computes ⟨h, hlen, hsrc, hdst⟩ hover

/-- Settles O28: as for `CBCE`, with the mode of `CbcDecrypt`. -/
theorem cbcdComputesCbcDecryption : Obligations.CbcdComputesCbcDecryption := by
  intro s cr h hlen hsrc hdst hover
  rw [← ChainingMode.cbcDecryption_message]
  exact (ChainingMode.cbcd_runs cr).computes ⟨h, hlen, hsrc, hdst⟩ hover

/-- Settles O32: the run of no blocks is no change. -/
theorem zeroLengthChainedCommandChangesNothing : Obligations.ZeroLengthChainedCommandChangesNothing := by
  intro i s hi h hlen hsrc hdst
  obtain ⟨M, cr, hrun⟩ := ChainingMode.exists_runBy hi
  have hzero : s.len.toNat = 0 := by rw [hlen]; rfl
  have hcount : blockCount s = 0 := by rw [blockCount, hzero, Nat.zero_div]
  have hexec := hrun.exec_eq_runBlocks (s := s) ⟨h, by rw [hzero, Nat.zero_mod], by rwa [hzero], by rwa [hzero]⟩
  rw [hcount] at hexec
  exact ⟨_, hexec, rfl⟩

/-! ### Streaming (R222) -/

/-- The command over the next `l` bytes, from where `m` blocks stopped, leaves the data of the blocks up to there. -/
theorem ChainingMode.RunBy.continues_over {M : ChainingMode} {cr : ChainReg} {i : Instr} (hi : M.RunBy cr i) {u t : State}
    {m l : Nat} {src dst : Word} (h : u.Ready) (hdata : SameData (runBlocks (M.block cr) m u) t)
    (hsrc : src.toNat = srcBlock u m) (hdst : dst.toNat = dstBlock u m) (hwhole : l % blockBytes u.ctx = 0)
    (hsrcIn : src.toNat + l ≤ 4096) (hdstIn : dst.toNat + l ≤ 4096) :
    ∃ t', exec i { t with src := src, dst := dst, len := BitVec.ofNat 32 l } = .next t' ∧ t'.err = 0 ∧
      SameData (runBlocks (M.block cr) (m + l / blockBytes u.ctx) u) t' := by
  have hlen : (BitVec.ofNat 32 l).toNat = l := Nat.mod_eq_of_lt (by omega)
  have hctx : t.ctx = u.ctx := hdata.ctx.trans (M.runBlocks_ctx cr m u)
  have hready : ({ t with src := src, dst := dst, len := BitVec.ofNat 32 l } : State).ChainReady :=
    ⟨by rwa [State.Ready, hctx], by rwa [hctx, hlen], by rwa [hlen], by rwa [hlen]⟩
  obtain ⟨t', hexec, herr, hdata'⟩ := hi.continues hready (continues_of_operands _ hdata hsrc hdst)
  rw [blockCount, hlen, hctx] at hdata'
  exact ⟨t', hexec, herr, hdata'⟩

/-- Settles O29: the second command goes on where the first one stopped, so together they run the blocks of the one. -/
theorem chainedCommandsStream : Obligations.ChainedCommandsStream := by
  intro i s l1 l2 hi h hwhole1 hwhole2 hsrc hdst
  obtain ⟨M, cr, hrun⟩ := ChainingMode.exists_runBy hi
  have hdvd1 : blockBytes s.ctx ∣ l1 := Nat.dvd_of_mod_eq_zero hwhole1
  have hdvd2 : blockBytes s.ctx ∣ l2 := Nat.dvd_of_mod_eq_zero hwhole2
  have hsrc2 : (BitVec.ofNat 32 (s.src.toNat + l1)).toNat = s.src.toNat + l1 := Nat.mod_eq_of_lt (by omega)
  have hdst2 : (BitVec.ofNat 32 (s.dst.toNat + l1)).toNat = s.dst.toNat + l1 := Nat.mod_eq_of_lt (by omega)
  have hfrom {l : Nat} := hrun.continues_over (l := l) (m := 0) h (.refl s) (srcBlock_zero s).symm (dstBlock_zero s).symm
  obtain ⟨t, hexec, herr, hdata⟩ := hfrom (Nat.mod_eq_zero_of_dvd (dvd_add hdvd1 hdvd2)) hsrc hdst
  obtain ⟨t1, hexec1, herr1, hdata1⟩ := hfrom hwhole1 (by omega) (by omega)
  rw [Nat.zero_add] at hdata hdata1
  obtain ⟨t2, hexec2, herr2, hdata2⟩ := hrun.continues_over h hdata1
    (by rw [hsrc2, srcBlock, Nat.div_mul_cancel hdvd1]) (by rw [hdst2, dstBlock, Nat.div_mul_cancel hdvd1]) hwhole2
    (by omega) (by omega)
  rw [← Nat.add_div_of_dvd_right hdvd1] at hdata2
  exact ⟨t, t1, t2, hexec, hexec1, hexec2, herr, herr1, herr2, hdata2.dbuf.trans hdata.dbuf.symm,
    (hdata2.cr .cr0).trans (hdata.cr .cr0).symm, (hdata2.cr .cr1).trans (hdata.cr .cr1).symm,
    hdata2.ctx.trans hdata.ctx.symm⟩

/-! ### CbcEncrypt and CbcDecrypt (R223, R224) -/

/-- Each block is decrypted with the register that encryption had there, because both registers take the ciphertext block. -/
theorem cbcDecrypt_cbcEncrypt {c : Context} (h : c.Legal) {m : Nat} {r x : List Byte} (hr : r.length = blockBytes c)
    (hx : x.length = m * blockBytes c) : cbcDecrypt c m r (cbcEncrypt c m r x).1 = (x, (cbcEncrypt c m r x).2) := by
  induction m generalizing r x with
  | zero =>
    have hnil : x = [] := List.eq_nil_of_length_eq_zero (by rw [hx, Nat.zero_mul])
    rw [hnil]
    rfl
  | succ m ih =>
    obtain ⟨hhead, htail⟩ := length_take_drop_of_succ_mul hx
    have hcipher := encryptBlock_length h (xorBytes (x.take (blockBytes c)) r)
    have hblock : xorBytes (decryptBlock c (encryptBlock c (xorBytes (x.take (blockBytes c)) r))) r = x.take (blockBytes c) := by
      rw [decryptBlock_encryptBlock h (xorBytes_length hhead hr), xorBytes_xorBytes_cancel (hhead.trans hr.symm)]
    simp only [cbcEncrypt, cbcDecrypt, List.take_left' hcipher, List.drop_left' hcipher, ih hcipher htail, hblock,
      List.take_append_drop]

/-- Settles O30: `cbcDecrypt_cbcEncrypt`, by induction on the number of blocks. -/
theorem cbcDecryptionInvertsCbcEncryption : Obligations.CbcDecryptionInvertsCbcEncryption :=
  fun _ _ _ _ h hr hx => cbcDecrypt_cbcEncrypt h hr hx

/-- The register before block `i` is the ciphertext block before it, or the initial one. -/
theorem cbcDecrypt_block {c : Context} (h : c.Legal) {m i : Nat} {r x : List Byte} (hr : r.length = blockBytes c)
    (hx : x.length = m * blockBytes c) (hi : i < m) :
    ((cbcDecrypt c m r x).1.drop (i * blockBytes c)).take (blockBytes c) =
      xorBytes (decryptBlock c ((x.drop (i * blockBytes c)).take (blockBytes c)))
        (if i = 0 then r else (x.drop ((i - 1) * blockBytes c)).take (blockBytes c)) := by
  induction m generalizing i r x with
  | zero => exact absurd hi (Nat.not_lt_zero i)
  | succ m ih =>
    obtain ⟨hhead, htail⟩ := length_take_drop_of_succ_mul hx
    have hplain : (xorBytes (decryptBlock c (x.take (blockBytes c))) r).length = blockBytes c :=
      xorBytes_length (decryptBlock_length h _) hr
    cases i with
    | zero => simp [cbcDecrypt, List.take_left' hplain]
    | succ i =>
      rw [cbcDecrypt, ← drop_drop_mul, List.drop_left' hplain, ih hhead htail (Nat.lt_of_succ_lt_succ hi), drop_drop_mul,
        if_neg (Nat.succ_ne_zero i), Nat.add_sub_cancel]
      cases i with
      | zero => simp
      | succ i => rw [if_neg (Nat.succ_ne_zero i), Nat.add_sub_cancel, drop_drop_mul]

/-- Settles O31: `cbcDecrypt_block`, by induction on the number of blocks. -/
theorem decryptedBlockNeedsTwoCiphertextBlocks : Obligations.DecryptedBlockNeedsTwoCiphertextBlocks :=
  fun _ _ _ _ _ h hr hx hi => cbcDecrypt_block h hr hx hi

end Sys2Proof.Machine
end

section
/-! The host interface (45): the windows of the register map read and written, the accesses that store nothing, and that every
access completes. -/

namespace Sys2Proof.Machine

/-! ### The windows of the register map (10 R37) -/

theorem portMap_keyin_window {j : Nat} (hj : j < 8) : portMap (0x008 + j) = .keyinW j := by
  simp (disch := omega) only [portMap, if_neg, if_pos, Nat.add_sub_cancel_left]

theorem portMap_cr_window (cr : ChainReg) {j : Nat} (hj : j < 8) : portMap (crWindow cr + j) = .crW cr j := by
  cases cr <;> simp (disch := omega) only [crWindow, portMap, if_neg, if_pos, Nat.add_sub_cancel_left]

theorem portMap_schedule_window {i : Nat} (hi : i < 120) : portMap (0x080 + i) = .rkW i := by
  simp (disch := omega) only [portMap, if_neg, if_pos, Nat.add_sub_cancel_left]

theorem portMap_dbuf_window {k : Nat} (hk : k < 1024) : portMap (0x400 + k) = .dbufW k := by
  simp (disch := omega) only [portMap, Config.dbufBytes, if_neg, if_pos, Nat.add_sub_cancel_left]

theorem portMap_of_reserved {wa : Nat} (h : ReservedIndex wa) : portMap wa = .none := by
  simp (disch := omega) only [portMap, Config.dbufBytes, if_neg]

/-- The registers that the read-only indexes select. -/
theorem portMap_of_readOnly {wa : Nat} (h : ReadOnlyIndex wa) :
    portMap wa = .status ∨ portMap wa = .cfg ∨ ∃ i, portMap wa = .rkW i := by
  rcases h with rfl | rfl | ⟨hlo, hhi⟩
  · exact .inl rfl
  · exact .inr (.inl rfl)
  · obtain ⟨i, rfl⟩ := Nat.exists_eq_add_of_le hlo
    exact .inr (.inr ⟨i, portMap_schedule_window (by omega)⟩)

/-! ### Reads and writes of a window (45 R241 to R248) -/

section Windows
variable (s : State) (d : Word)

theorem hostRead_keyin {j : Nat} (hj : j < 8) : hostRead (0x008 + j) s = bufWord s.keyin j := by
  rw [hostRead, portMap_keyin_window hj]

theorem hostRead_cr (cr : ChainReg) {j : Nat} (hj : j < 8) : hostRead (crWindow cr + j) s = bufWord (s.cr cr) j := by
  rw [hostRead, portMap_cr_window cr hj]

theorem hostRead_schedule {i : Nat} (hi : i < 120) : hostRead (0x080 + i) s = scheduleWindow s.ctx i := by
  rw [hostRead, portMap_schedule_window hi]

theorem hostRead_dbuf {k : Nat} (hk : k < 1024) : hostRead (0x400 + k) s = dbufWord s.dbuf k := by
  rw [hostRead, portMap_dbuf_window hk]

theorem storeWrite_keyin {j : Nat} (hj : j < 8) :
    storeWrite (0x008 + j) d s = { s with keyin := bufSetWord s.keyin j d } := by
  rw [storeWrite, portMap_keyin_window hj]

theorem storeWrite_cr_window (cr : ChainReg) {j : Nat} (hj : j < 8) :
    storeWrite (crWindow cr + j) d s = s.setCr cr (bufSetWord (s.cr cr) j d) := by
  rw [storeWrite, portMap_cr_window cr hj]

theorem storeWrite_dbuf_window {k : Nat} (hk : k < 1024) :
    storeWrite (0x400 + k) d s = s.setDbuf (memWrite s.dbuf (4 * k) (wordBytes d)) := by
  rw [storeWrite, portMap_dbuf_window hk]

/-- A write to a reserved, unmapped or read-only index stores nothing (R246). -/
theorem storeWrite_ignored {wa : Nat} (h : ReservedIndex wa ∨ ReadOnlyIndex wa) : storeWrite wa d s = s := by
  rcases h with h | h
  · rw [storeWrite, portMap_of_reserved h]
  · rcases portMap_of_readOnly h with hp | hp | ⟨i, hp⟩ <;> rw [storeWrite, hp]

end Windows

theorem dbufWord_eq_wordOf (m : List Host.Cell) (k : Nat) :
    dbufWord m k = wordOf (memGet m (4 * k)) (memGet m (4 * k + 1)) (memGet m (4 * k + 2)) (memGet m (4 * k + 3)) := rfl

theorem wordBytes_getD (d : Word) {i : Nat} (hi : i < 4) : (wordBytes d).getD i 0 = wordByte d i := by
  match i, hi with
  | 0, _ | 1, _ | 2, _ | 3, _ => rfl

theorem memGet_memWrite_wordBytes (m : List Host.Cell) (a : Nat) (d : Word) {i : Nat} (hi : i < 4) :
    memGet (memWrite m a (wordBytes d)) (a + i) = wordByte d i := by
  rw [memGet_memWrite, if_pos (by rw [wordBytes_length]; omega), Nat.add_sub_cancel_left, wordBytes_getD d hi]

/-- Settles O43: each window is an array of words, and a word of it is the word of its four bytes. -/
theorem hostWordsPackBytesBigEndian : Obligations.HostWordsPackBytesBigEndian := by
  have hcr {s : State} {d : Word} {j i : Nat} (cr : ChainReg) (hj : j < 8) (hi : i < 4) :
      ((storeWrite (crWindow cr + j) d s).cr cr).toList.getD (4 * j + i) 0 = wordByte d i := by
    rw [storeWrite_cr_window s d cr hj, State.setCr_cr_same, bufSetWord_getD_inside _ d hj hi]
  refine ⟨fun s j hj => ⟨hostRead_keyin s hj, hostRead_cr s .cr0 hj, hostRead_cr s .cr1 hj⟩,
    fun s k hk => (hostRead_dbuf s hk).trans (dbufWord_eq_wordOf _ k), fun s d j i hj hi => ⟨?_, ?_, ?_⟩,
    fun s d k i hk hi => ?_⟩
  · rw [storeWrite_keyin s d hj]
    exact bufSetWord_getD_inside _ d hj hi
  · exact hcr .cr0 hj hi
  · exact hcr .cr1 hj hi
  · rw [storeWrite_dbuf_window s d hk]
    exact memGet_memWrite_wordBytes _ _ d hi

/-! ### The accesses that store nothing (R246, R247) -/

/-- Settles O44: the indexes select no register that a write stores to, and of all a step can do only commands and resets write
`ERR`. -/
theorem reservedAndReadOnlyIndexesIgnoreWrites : Obligations.ReservedAndReadOnlyIndexesIgnoreWrites := by
  refine ⟨fun s wa h => ?_, fun s wa d rest hp hidle h => ?_, fun s t h herr => ?_⟩
  · rw [hostRead, portMap_of_reserved h]
  · have hcmd : wa ≠ 0x000 := by omega
    calc step s = serve (.write wa d) { s with port := rest } := step_of_port hp
      _ = .next (storeWrite wa d { s with port := rest }) := serve_write_idle { s with port := rest } hidle hcmd d
      _ = .next { s with port := rest } := by rw [storeWrite_ignored _ d h]
  · rcases step_cases h with ⟨-, rfl⟩ | ⟨e, rest, hp, hcase⟩
    · exact absurd rfl herr
    · rcases hcase with ⟨-, rfl⟩ | ⟨draw, rfl, -⟩ | ⟨wa, -, rfl⟩ | ⟨wa, d, -, -, -, rfl⟩ | ⟨d, i, rfl, -⟩ |
        ⟨d, why, rfl, -⟩
      · exact absurd rfl herr
      · exact .inr ⟨draw, rest, hp⟩
      · exact absurd rfl herr
      · exact absurd (storeWrite_err _ _ _) herr
      · exact .inl ⟨d, rest, hp⟩
      · exact .inl ⟨d, rest, hp⟩

/-- The schedule of a context of 10 R25 has the length that `RKLEN` says, 0 when unkeyed. -/
theorem rk_length_of_ok {c : Context} (h : c.Ok) : c.rk.length = c.rklen.toNat := by
  cases hk : c.keyed with
  | false => rw [h.1 hk]; rfl
  | true =>
    obtain ⟨⟨-, -, -, -, hlen⟩, -⟩ := h.2 hk
    exact hlen

/-- Settles O46: `RKLEN` is the length of the schedule, and an unkeyed schedule is empty. -/
theorem theScheduleWindowEndsAtTheScheduleLength : Obligations.TheScheduleWindowEndsAtTheScheduleLength := by
  intro s i hctx hi
  refine ⟨?_, fun hk => ?_, fun d => storeWrite_ignored s d (.inr (.inr (.inr (by omega))))⟩
  · rw [hostRead_schedule s hi, scheduleWindow, rk_length_of_ok hctx]
  · rw [hostRead_schedule s hi, hctx.1 hk]
    rfl

/-! ### Every access completes (R240, R244, R245) -/

theorem issue_command {d : Word} {i : Instr} (h : decode d = .command i) (s : State) :
    issue d s = exec i (acceptCommand d s) := by rw [issue, h]

/-- Settles O6: the access is served by `issue`, which decodes the word. -/
theorem aStepExecutesTheDecodedCommand : Obligations.AStepExecutesTheDecodedCommand := by
  intro s d i rest hp hidle hd
  calc step s = serve (.write 0x000 d) { s with port := rest } := step_of_port hp
    _ = issue d { s with port := rest } := serve_write_cmd_idle { s with port := rest } hidle d
    _ = exec i (acceptCommand d { s with port := rest }) := issue_command hd _

section Completes
variable {s : State}

/-- A context of 10 R25 is unkeyed, or can run a data command. -/
theorem unkeyed_or_ready (h : s.ctx.Ok) : s.ctx.keyed = false ∨ s.Ready := by
  cases hk : s.ctx.keyed with
  | false => exact .inl rfl
  | true => exact .inr ⟨hk, (h.2 hk).1⟩

theorem blockCommand_completes (f : Context → List Byte → List Byte) (h : s.ctx.Ok) : ∃ t, blockCommand f s = .next t := by
  rcases unkeyed_or_ready h with hk | hr
  · exact ⟨_, blockCommand_notKeyed f hk⟩
  · by_cases hrange : OutOfRange s (blockBytes s.ctx)
    · exact ⟨_, blockCommand_outOfRange f hr hrange⟩
    · exact ⟨_, blockCommand_runs f hr hrange⟩

theorem chainedCommand_completes (f : Nat → State → State) (h : s.ctx.Ok) : ∃ t, chainedCommand f s = .next t := by
  rcases unkeyed_or_ready h with hk | hr
  · exact ⟨_, chainedCommand_notKeyed f hk⟩
  · by_cases hlen : BadLength s
    · exact ⟨_, chainedCommand_badLength f hr hlen⟩
    · by_cases hrange : OutOfRange s s.len.toNat
      · exact ⟨_, chainedCommand_outOfRange f hr hlen hrange⟩
      · exact ⟨_, chainedCommand_runs f hr hlen hrange⟩

theorem execSetkey_completes (kbits bbits : Nat) (s : State) : ∃ t, execSetkey kbits bbits s = .next t := by
  by_cases hl : Config.LegalSize kbits ∧ Config.LegalSize bbits
  · exact ⟨_, execSetkey_legal hl.1 hl.2 s⟩
  · exact ⟨_, execSetkey_illegal hl s⟩

/-- In a context of 10 R25 no command stops the machine. -/
theorem exec_completes (i : Instr) (h : s.ctx.Ok) : ∃ t, exec i s = .next t := by
  cases i with
  | setkey kbits bbits => exact execSetkey_completes kbits bbits s
  | enc => exact blockCommand_completes _ (s := s.setCmd (encode .enc)) h
  | dec => exact blockCommand_completes _ (s := s.setCmd (encode .dec)) h
  | cbce cr => exact chainedCommand_completes _ (s := s.setCmd (encode (.cbce cr))) h
  | cbcd cr => exact chainedCommand_completes _ (s := s.setCmd (encode (.cbcd cr))) h

theorem issue_completes (d : Word) (h : s.ctx.Ok) : ∃ t, issue d s = .next t := by
  cases hd : decode d with
  | command i =>
    rw [issue_command hd]
    exact exec_completes i (s := acceptCommand d s) h
  | illegal why => exact ⟨_, issue_illegal hd s⟩

theorem serve_completes (e : HostAccess) (h : s.ctx.Ok) (hidle : s.busy = false) : ∃ t, serve e s = .next t := by
  cases e with
  | read wa => exact ⟨_, serve_read_idle s hidle wa⟩
  | write wa d =>
    by_cases hwa : wa = 0x000
    · rw [hwa, serve_write_cmd_idle s hidle d]
      exact issue_completes d h
    · exact ⟨_, serve_write_idle s hidle hwa d⟩
  | wait => exact ⟨_, rfl⟩
  | reset draw => exact ⟨_, rfl⟩

end Completes

/-- Settles O50: an idle engine refuses no access, and its context is one that no command stops at. -/
theorem everyAccessCompletes : Obligations.EveryAccessCompletes := by
  intro s ⟨hctx, _, hidle, _⟩
  cases hp : s.port with
  | nil => exact ⟨s, by rw [step, hp]⟩
  | cons e rest =>
    rw [step_of_port hp]
    exact serve_completes e (s := { s with port := rest }) hctx hidle

end Sys2Proof.Machine
end

section
/-! The interface procedures (45 R249): what the host's loads and reads do to whole byte strings, what a call answers, and from
both what key setup, the single-block and the chained transform return. -/

namespace Sys2Proof.Machine

/-! ### The bytes of whole words (R243) -/

/-- The bytes of the first `n` words of a byte string, a missing byte as 0x00: what a load of `n` words writes. -/
def wordsBytes (b : List Byte) (n : Nat) : List Byte := (List.range n).flatMap fun j => wordBytes (wordAt b j)

/-- A byte string filled with 0x00 to whole words (30 R102). -/
def padded (b : List Byte) : List Byte := wordsBytes b ((b.length + 3) / 4)

theorem wordsBytes_zero (b : List Byte) : wordsBytes b 0 = [] := rfl

theorem wordsBytes_succ (b : List Byte) (n : Nat) : wordsBytes b (n + 1) = wordsBytes b n ++ wordBytes (wordAt b n) := by
  simp [wordsBytes, List.range_succ]

theorem columnBytes_columnAt (b : List Byte) (c : Nat) : columnBytes (columnAt b c) = wordBytes (wordAt b c) := by
  rw [wordBytes, wordByte_wordAt b c (by decide), wordByte_wordAt b c (by decide), wordByte_wordAt b c (by decide),
    wordByte_wordAt b c (by decide)]
  rfl

/-- Words lie in a byte string as columns lie in a block (20 R62). -/
theorem wordsBytes_eq_storeState (b : List Byte) (n : Nat) : wordsBytes b n = storeState (loadState b n) := by
  simp only [wordsBytes, storeState, loadState, List.flatMap_map, columnBytes_columnAt]

theorem wordsBytes_length (b : List Byte) (n : Nat) : (wordsBytes b n).length = 4 * n := by
  rw [wordsBytes_eq_storeState, storeState_length, loadState_length]

theorem padded_of_whole {b : List Byte} (h : b.length % 4 = 0) : padded b = b := by
  have hlen : b.length = 4 * ((b.length + 3) / 4) := by omega
  rw [padded, wordsBytes_eq_storeState]
  exact storeState_loadState hlen

theorem bufPut_nil (v : Vector Byte 32) : bufPut v [] = v := by
  rw [← Vector.toList_inj, bufPut_toList v (Nat.zero_le _)]
  rfl

theorem bufPut_getD (v : Vector Byte 32) {x : List Byte} (hx : x.length ≤ 32) (i : Nat) :
    (bufPut v x).toList.getD i 0 = if i < x.length then x.getD i 0 else v.toList.getD i 0 := by
  rw [bufPut_toList v hx]
  split
  · next hi => exact List.getD_append _ _ _ _ hi
  · next hi =>
    rw [List.getD_append_right _ _ _ _ (Nat.le_of_not_lt hi), List.getD_eq_getElem?_getD, List.getElem?_drop,
      Nat.add_sub_cancel' (Nat.le_of_not_lt hi), List.getD_eq_getElem?_getD]

/-- Two buffers with the same bytes are the same. -/
theorem buffer_eq_of_getD_eq {v w : Vector Byte 32} (h : ∀ i < 32, v.toList.getD i 0 = w.toList.getD i 0) : v = w :=
  Vector.ext fun i hi => by simpa [List.getD_eq_getElem?_getD, hi] using h i hi

/-- The next word goes behind the words already put. -/
theorem bufSetWord_bufPut (v : Vector Byte 32) {x : List Byte} {n : Nat} (hx : x.length = 4 * n) (hn : n < 8) (d : Word) :
    bufSetWord (bufPut v x) n d = bufPut v (x ++ wordBytes d) := by
  have hlen : (x ++ wordBytes d).length = 4 * n + 4 := by rw [List.length_append, hx, wordBytes_length]
  refine buffer_eq_of_getD_eq fun i _ => ?_
  rw [bufPut_getD v (by omega), hlen]
  by_cases hin : 4 * n ≤ i ∧ i < 4 * n + 4
  · obtain ⟨r, rfl⟩ := Nat.exists_eq_add_of_le hin.1
    have hr : r < 4 := by omega
    rw [bufSetWord_getD_inside _ _ hn hr, if_pos hin.2, List.getD_append_right _ _ _ _ (by omega), hx,
      Nat.add_sub_cancel_left, wordBytes_getD d hr]
  · rw [bufSetWord_getD_outside _ _ (by omega), bufPut_getD v (by omega), hx]
    by_cases hlow : i < 4 * n
    · rw [if_pos hlow, if_pos (by omega), List.getD_append _ _ _ _ (by omega)]
    · rw [if_neg hlow, if_neg (by omega)]

theorem memWrite_wordsBytes_succ (m : List Host.Cell) (b : List Byte) (k n : Nat) :
    memWrite (memWrite m (4 * k) (wordsBytes b n)) (4 * (k + n)) (wordBytes (wordAt b n)) =
      memWrite m (4 * k) (wordsBytes b (n + 1)) := by
  rw [wordsBytes_succ, memWrite_append, wordsBytes_length, Nat.mul_add]

/-- A word of `DBUF` inside a block, at a word-aligned offset, is that word of the block (R248). -/
theorem dbufWord_eq_wordAt_memRead (m : List Host.Cell) {k j n : Nat} (h : 4 * j + 4 ≤ n) :
    dbufWord m (k + j) = wordAt (memRead m (4 * k) n) j := by
  rw [dbufWord_eq_wordOf, wordAt, memRead_getD _ _ _ (by omega), memRead_getD _ _ _ (by omega), memRead_getD _ _ _ (by omega),
    memRead_getD _ _ _ (by omega), Nat.mul_add, Nat.add_assoc, Nat.add_assoc, Nat.add_assoc]

/-! ### Accesses one after another -/

/-- Accesses that return nothing, then others: the values are those of the others. -/
theorem perform_append_silent {l l' : List HostAccess} {s t : State} (h : perform l s = .next ([], t)) :
    perform (l ++ l') s = perform l' t := by
  rw [perform_append h]
  cases perform l' t <;> rfl

theorem perform_append_next {l l' : List HostAccess} {s t u : State} {v w : List Word} (h : perform l s = .next (v, t))
    (h' : perform l' t = .next (w, u)) : perform (l ++ l') s = .next (v ++ w, u) := by
  rw [perform_append h, h']

theorem perform_cons_write {s : State} (h : s.busy = false) {wa : Nat} (hwa : wa ≠ 0) (d : Word) (l : List HostAccess) :
    perform (.write wa d :: l) s = perform l (storeWrite wa d s) :=
  perform_append_silent (l := [.write wa d]) (perform_write h hwa d)

/-- The load of a byte string runs through the states `f 0, f 1, …` when each word's write leads to the next. -/
theorem perform_writeWords {wa : Nat} {b : List Byte} {f : Nat → State} (hwa : wa ≠ 0) (hidle : (f 0).busy = false)
    (hf : ∀ j < (b.length + 3) / 4, storeWrite (wa + j) (wordAt b j) (f j) = f (j + 1)) :
    perform (writeWords wa b) (f 0) = .next ([], f ((b.length + 3) / 4)) := by
  have hrun (n : Nat) (hn : n ≤ (b.length + 3) / 4) :
      (f n).busy = false ∧
        perform ((List.range n).map fun j => .write (wa + j) (wordAt b j)) (f 0) = .next ([], f n) := by
    induction n with
    | zero => exact ⟨hidle, rfl⟩
    | succ n ih =>
      obtain ⟨hbusy, hperform⟩ := ih (Nat.le_of_succ_le hn)
      have hwrite := hf n hn
      refine ⟨by rw [← hwrite, storeWrite_busy, hbusy], ?_⟩
      rw [List.range_succ, List.map_append, perform_append_silent hperform, List.map_singleton,
        perform_write hbusy (by omega), hwrite]
  exact (hrun _ (le_refl _)).2

/-- The reads of consecutive words return the words of the map and leave the engine as it is. -/
theorem perform_readWords {s : State} (hidle : s.busy = false) (wa n : Nat) :
    ∃ r, perform (readWords wa n) s =
      .next ((List.range (n / 4)).map fun j => hostRead (wa + j) s, { s with rdata := r }) := by
  rw [readWords]
  induction n / 4 with
  | zero => exact ⟨s.rdata, rfl⟩
  | succ m ih =>
    obtain ⟨r, hperform⟩ := ih
    have hlast := perform_read (s := { s with rdata := r }) hidle (wa + m)
    simp only [List.range_succ, List.map_append]
    exact ⟨some (hostRead (wa + m) s), perform_append_next hperform hlast⟩

/-! ### The loads and reads of the procedures (30 R102) -/

theorem State.setCr_setCr (s : State) (cr : ChainReg) (v w : Vector Byte 32) : (s.setCr cr v).setCr cr w = s.setCr cr w := by
  cases cr <;> rfl

theorem State.setCr_cr (s : State) (cr : ChainReg) : s.setCr cr (s.cr cr) = s := by cases cr <;> rfl

section Loads
variable {s : State}

theorem perform_loadKey (hidle : s.busy = false) {key : List Byte} (hlen : key.length ≤ 32) :
    perform (loadKey key) s = .next ([], { s with keyin := bufPut s.keyin (padded key) }) := by
  have hload := perform_writeWords (wa := 0x008) (b := key)
    (f := fun j => { s with keyin := bufPut s.keyin (wordsBytes key j) }) (by decide) hidle fun j hj => by
      rw [storeWrite_keyin _ _ (by omega), bufSetWord_bufPut _ (wordsBytes_length key j) (by omega), ← wordsBytes_succ]
  rwa [wordsBytes_zero, bufPut_nil] at hload

theorem perform_loadCr (hidle : s.busy = false) (cr : ChainReg) {b : List Byte} (hlen : b.length ≤ 32) :
    perform (loadCr cr b) s = .next ([], s.setCr cr (bufPut (s.cr cr) (padded b))) := by
  have hwindow : crWindow cr ≠ 0 := by cases cr <;> decide
  have hload := perform_writeWords (wa := crWindow cr) (b := b)
    (f := fun j => s.setCr cr (bufPut (s.cr cr) (wordsBytes b j))) hwindow ((State.setCr_busy ..).trans hidle) fun j hj => by
      rw [storeWrite_cr_window _ _ _ (by omega), State.setCr_cr_same, bufSetWord_bufPut _ (wordsBytes_length b j) (by omega),
        ← wordsBytes_succ, State.setCr_setCr]
  rwa [wordsBytes_zero, bufPut_nil, State.setCr_cr] at hload

theorem perform_loadBuf (hidle : s.busy = false) {offset : Nat} (hoff : offset % 4 = 0) {b : List Byte}
    (hlen : offset + b.length ≤ 4096) :
    perform (loadBuf offset b) s = .next ([], s.setDbuf (memWrite s.dbuf offset (padded b))) := by
  have hload := perform_writeWords (wa := 0x400 + offset / 4) (b := b)
    (f := fun j => s.setDbuf (memWrite s.dbuf (4 * (offset / 4)) (wordsBytes b j))) (by omega) hidle fun j hj => by
      rw [Nat.add_assoc, storeWrite_dbuf_window _ _ (by omega), State.setDbuf_dbuf, memWrite_wordsBytes_succ]
      rfl
  rwa [Nat.mul_div_cancel' (Nat.dvd_of_mod_eq_zero hoff)] at hload

theorem perform_readBuf (hidle : s.busy = false) {offset n : Nat} (hoff : offset % 4 = 0) (hlen : offset + n ≤ 4096) :
    ∃ r, perform (readBuf offset n) s =
      .next ((List.range (n / 4)).map (wordAt (memRead s.dbuf offset n)), { s with rdata := r }) := by
  obtain ⟨r, hread⟩ := perform_readWords hidle (0x400 + offset / 4) n
  have hword (j : Nat) (hj : j ∈ List.range (n / 4)) :
      hostRead (0x400 + offset / 4 + j) s = wordAt (memRead s.dbuf offset n) j := by
    have hin : j < n / 4 := List.mem_range.1 hj
    rw [Nat.add_assoc, hostRead_dbuf s (by omega), dbufWord_eq_wordAt_memRead s.dbuf (n := n) (by omega),
      Nat.mul_div_cancel' (Nat.dvd_of_mod_eq_zero hoff)]
  exact ⟨r, by rw [readBuf, hread, List.map_congr_left hword]⟩

end Loads

/-! ### A call: the preparation, the command, the result (R249) -/

section Call
variable {pre reads : List HostAccess} {i : Instr} {s t u v : State} {output : List Word}

/-- After its preparation a call runs its command and reads `STATUS`. -/
theorem perform_call (hpre : perform pre s = .next ([], t)) (hidle : t.busy = false) (hi : WellFormed i)
    (hexec : exec i (acceptCommand (encode i) t) = .next u) :
    perform (pre ++ commandLine i ++ [.read 0x001]) s = .next ([statusWord u], { u with rdata := some (statusWord u) }) := by
  have hissue : issue (encode i) t = .next u := (issue_command (decode_encode hi) t).trans hexec
  rw [List.append_assoc, perform_append_silent hpre, commandLine, perform_append_silent (perform_command hidle hissue)]
  exact perform_read (exec_busy hexec) 0x001

theorem resultCode_statusWord (u : State) : resultCode [statusWord u] = u.err := statusWord_err u

/-- A call whose command succeeds: the code 0 and the output as it is read after the command. -/
theorem procedure_succeeds (hpre : perform pre s = .next ([], t)) (hidle : t.busy = false) (hi : WellFormed i)
    (hexec : exec i (acceptCommand (encode i) t) = .next u) (herr : u.err = 0)
    (hreads : perform reads { u with rdata := some (statusWord u) } = .next (output, v)) :
    procedure (pre ++ commandLine i ++ [.read 0x001]) reads s = .next { code := u.err, output := output, state := v } := by
  have hcode : u.err = errCode .ok := herr
  simp only [procedure, perform_call hpre hidle hi hexec, resultCode_statusWord, if_pos hcode, hreads]

theorem errCode_ne_ok {e : ErrorCode} (h : e ≠ .ok) : errCode e ≠ errCode .ok := by
  cases e with
  | ok => exact absurd rfl h
  | _ => decide

/-- A call whose command ends in an error: its code and no output. -/
theorem procedure_fails {e : ErrorCode} (hpre : perform pre s = .next ([], t)) (hidle : t.busy = false) (hi : WellFormed i)
    (hexec : exec i (acceptCommand (encode i) t) = .next u) (herr : u.err = errCode e) (he : e ≠ .ok) :
    procedure (pre ++ commandLine i ++ [.read 0x001]) reads s =
      .next { code := errCode e, output := [], state := { u with rdata := some (statusWord u) } } := by
  simp only [procedure, perform_call hpre hidle hi hexec, resultCode_statusWord, herr, if_neg (errCode_ne_ok he)]

end Call

end Sys2Proof.Machine
end

section
/-! The statements about the interface procedures (45 R249), each a call whose command succeeds or ends in its one error. -/

namespace Sys2Proof.Machine

/-! ### Key setup (R249 a) -/

/-- Whatever the key, its load writes to `KEYIN` only: a legal key size cuts it to 32 bytes. -/
theorem perform_keyLoad {s : State} (hidle : s.busy = false) (key : List Byte) (kbits : Nat) :
    ∃ t, perform (if Config.LegalSize kbits then loadKey (key.take (kbits / 8)) else []) s = .next ([], t) ∧
      t.busy = false ∧ t.ctx = s.ctx := by
  split
  · next hk =>
    have hlen : (key.take (kbits / 8)).length ≤ 32 := by rw [List.length_take]; omega
    exact ⟨_, perform_loadKey hidle hlen, hidle, rfl⟩
  · exact ⟨s, rfl, hidle, rfl⟩

theorem wellFormed_setkey_iff {kbits bbits : Nat} : WellFormed (.setkey kbits bbits) ↔ kbits < 4096 ∧ bbits < 4096 := by
  simp [WellFormed, Instr.wf]

/-- The sizes fit the word, so key setup is a call of `SETKEY`. -/
theorem runKeySetup_of_wellFormed {kbits bbits : Nat} (h : WellFormed (.setkey kbits bbits)) (key : List Byte) (s : State) :
    runKeySetup key kbits bbits s =
      procedure ((if Config.LegalSize kbits then loadKey (key.take (kbits / 8)) else []) ++
        commandLine (.setkey kbits bbits) ++ [.read 0x001]) [] s := by
  rw [runKeySetup, keySetup, if_pos h]
  rfl

theorem runKeySetup_of_not_wellFormed {kbits bbits : Nat} (h : ¬ WellFormed (.setkey kbits bbits)) (key : List Byte)
    (s : State) :
    runKeySetup key kbits bbits s = .next { code := errCode .invalidParameter, output := [], state := s } := by
  rw [runKeySetup, keySetup, if_neg h]

/-- Settles O58: the key loaded into `KEYIN` is what `SETKEY` expands; illegal sizes end in `InvalidParameter`, by `SETKEY` where
they fit the word. -/
theorem theKeySetupProcedureKeysTheContext : Obligations.TheKeySetupProcedureKeysTheContext := by
  intro s key kbits bbits hidle
  constructor
  · rintro ⟨hk, hb⟩ hlen
    have hwf : WellFormed (.setkey kbits bbits) := wellFormed_setkey_iff.2 (by omega)
    have hwords : key.length % 4 = 0 := by omega
    have hfits : key.length ≤ 32 := by omega
    have hload := perform_loadKey hidle hfits
    obtain ⟨u, hexec, hnb, hnk, -, -, hrk, -, hkeyed, -, herr, -⟩ := setkeyReplacesTheContextWhole
      (acceptCommand (encode (.setkey kbits bbits)) { s with keyin := bufPut s.keyin (padded key) }) kbits bbits hk hb
    have hkey : (bufPut s.keyin (padded key)).toList.take (kbits / 8) = key := by
      rw [padded_of_whole hwords]
      exact bufTake_bufPut_of_length _ hlen (hlen ▸ hfits)
    rw [runKeySetup_of_wellFormed hwf, if_pos hk, List.take_of_length_le hlen.le]
    refine ⟨_, procedure_succeeds hload hidle hwf hexec herr rfl, herr, hkeyed, hnk, hnb, ?_⟩
    rw [← hkey]
    exact hrk
  · intro hill
    by_cases hwf : WellFormed (.setkey kbits bbits)
    · obtain ⟨t, hload, hbusy, hctx⟩ := perform_keyLoad hidle key kbits
      have hexec := setkeyRejectsIllegalSizes (acceptCommand (encode (.setkey kbits bbits)) t) kbits bbits hill
      have hsizes := wellFormed_setkey_iff.1 hwf
      rw [runKeySetup_of_wellFormed hwf]
      exact ⟨_, procedure_fails (e := .invalidParameter) hload hbusy hwf hexec rfl (by decide), rfl, hctx,
        fun hwide => by omega⟩
    · exact ⟨_, runKeySetup_of_not_wellFormed hwf key s, rfl, rfl, fun _ => rfl⟩

/-! ### The loaded input of a data command -/

/-- The engine after a procedure has written its input and the offsets of its two buffers. -/
def loadedState (input : List Byte) (src dst : Nat) (s : State) : State :=
  { s with
    dbuf := memWrite s.dbuf src (padded input)
    src := BitVec.ofNat 32 src
    dst := BitVec.ofNat 32 dst }

/-- The same with the length of the input, for a chained command. -/
def loadedMessage (input : List Byte) (src dst : Nat) (s : State) : State :=
  { loadedState input src dst s with len := BitVec.ofNat 32 input.length }

/-- An offset or a length inside `DBUF` fits an operand register. -/
theorem toNat_ofNat_of_le {n : Nat} (h : n ≤ 4096) : (BitVec.ofNat 32 n).toNat = n := by
  rw [BitVec.toNat_ofNat]
  omega

section Loaded
variable (input : List Byte) (src dst : Nat) (s : State)

@[simp] theorem loadedState_ctx : (loadedState input src dst s).ctx = s.ctx := rfl
@[simp] theorem loadedState_busy : (loadedState input src dst s).busy = s.busy := rfl
@[simp] theorem loadedState_src : (loadedState input src dst s).src = BitVec.ofNat 32 src := rfl
@[simp] theorem loadedState_dst : (loadedState input src dst s).dst = BitVec.ofNat 32 dst := rfl

@[simp] theorem loadedMessage_ctx : (loadedMessage input src dst s).ctx = s.ctx := rfl
@[simp] theorem loadedMessage_src : (loadedMessage input src dst s).src = BitVec.ofNat 32 src := rfl
@[simp] theorem loadedMessage_dst : (loadedMessage input src dst s).dst = BitVec.ofNat 32 dst := rfl
@[simp] theorem loadedMessage_len : (loadedMessage input src dst s).len = BitVec.ofNat 32 input.length := rfl
@[simp] theorem loadedMessage_dbuf : (loadedMessage input src dst s).dbuf = (loadedState input src dst s).dbuf := rfl

/-- A whole number of words is read back as it was loaded. -/
theorem memRead_loadedState {input : List Byte} (h : input.length % 4 = 0) :
    memRead (loadedState input src dst s).dbuf src input.length = input := by
  rw [loadedState, padded_of_whole h]
  exact memRead_memWrite_same ..

end Loaded

section Load
variable {s : State} {input : List Byte} {src : Nat} (hidle : s.busy = false) (hsrc : src % 4 = 0)
  (hin : src + input.length ≤ 4096)
include hidle hsrc hin

theorem perform_blockLoad (dst : Nat) :
    perform (loadBuf src input ++ [.write 0x002 (BitVec.ofNat 32 src), .write 0x003 (BitVec.ofNat 32 dst)]) s =
      .next ([], loadedState input src dst s) := by
  have hdata : (s.setDbuf (memWrite s.dbuf src (padded input))).busy = false := hidle
  rw [perform_append_silent (perform_loadBuf hidle hsrc hin), perform_cons_write hdata (by decide),
    perform_cons_write ((storeWrite_busy ..).trans hdata) (by decide)]
  rfl

theorem perform_messageLoad (dst : Nat) :
    perform (loadBuf src input ++ [.write 0x002 (BitVec.ofNat 32 src), .write 0x003 (BitVec.ofNat 32 dst),
      .write 0x004 (BitVec.ofNat 32 input.length)]) s = .next ([], loadedMessage input src dst s) := by
  have hlen : perform [.write 0x004 (BitVec.ofNat 32 input.length)] (loadedState input src dst s) =
      .next ([], loadedMessage input src dst s) := perform_write (s := loadedState input src dst s) hidle (by decide) _
  rw [← perform_append_silent (perform_blockLoad hidle hsrc hin dst), List.append_assoc] at hlen
  exact hlen

end Load

/-! ### The single-block transform (R249 b) -/

/-- The command of the procedure, in both directions. -/
theorem blockDirection (encrypt : Bool) :
    WellFormed (if encrypt then .enc else .dec) ∧
      IsCommandOf (if encrypt then .enc else .dec) fun c p => if encrypt then encryptBlock c p else decryptBlock c p := by
  cases encrypt with
  | false => exact ⟨rfl, dec_isCommandOf⟩
  | true => exact ⟨rfl, enc_isCommandOf⟩

namespace IsCommandOf
variable {i : Instr} {f : Context → List Byte → List Byte} {s : State} {input : List Byte} {src dst : Nat}

/-- On the loaded block the command succeeds and leaves the block function of the input at the output's offset. -/
theorem exec_loadedState (hi : IsCommandOf i f) (h : s.Ready) (hlen : input.length = 4 * s.ctx.nb.toNat)
    (hin : src + input.length ≤ 4096) (hout : dst + input.length ≤ 4096) :
    ∃ u, exec i (acceptCommand (encode i) (loadedState input src dst s)) = .next u ∧ u.err = 0 ∧ u.busy = false ∧
      u.ctx = s.ctx ∧ memRead u.dbuf dst input.length = f s.ctx input := by
  have hsrc : (BitVec.ofNat 32 src).toNat = src := toNat_ofNat_of_le (by omega)
  have hdst : (BitVec.ofNat 32 dst).toNat = dst := toNat_ofNat_of_le (by omega)
  obtain ⟨u, hexec, -, herr, hbusy, hblock, -, hctx, -⟩ := hi.completes
    (s := acceptCommand (encode i) (loadedState input src dst s)) h (by simp; omega) (by simp; omega)
  refine ⟨u, hexec, herr, hbusy, hctx, ?_⟩
  simp only [srcBlock_zero, dstBlock_zero, acceptCommand_src, acceptCommand_dst, acceptCommand_ctx, acceptCommand_dbuf,
    loadedState_src, loadedState_dst, loadedState_ctx, hsrc, hdst, blockBytes, ← hlen] at hblock
  rwa [memRead_loadedState src dst s (by omega)] at hblock

theorem procedure_returns (hi : IsCommandOf i f) (hwf : WellFormed i) (hidle : s.busy = false) (hsrc : src % 4 = 0)
    (hdst : dst % 4 = 0) (h : s.Ready) (hlen : input.length = 4 * s.ctx.nb.toNat) (hin : src + input.length ≤ 4096)
    (hout : dst + input.length ≤ 4096) :
    ∃ r, procedure (blockCall i input src dst) (readBuf dst input.length) s = .next r ∧ r.code = 0 ∧ r.state.ctx = s.ctx ∧
      r.output = (List.range s.ctx.nb.toNat).map (wordAt (f s.ctx input)) := by
  obtain ⟨u, hexec, herr, hbusy, hctx, hblock⟩ := hi.exec_loadedState h hlen hin hout
  obtain ⟨v, hread⟩ := perform_readBuf (s := { u with rdata := some (statusWord u) }) hbusy hdst hout
  have hwords : input.length / 4 = s.ctx.nb.toNat := by omega
  exact ⟨_, procedure_succeeds (perform_blockLoad hidle hsrc hin dst) hidle hwf hexec herr hread, herr, hctx,
    by simp only [hblock, hwords]⟩

theorem procedure_notKeyed (hi : IsCommandOf i f) (hwf : WellFormed i) (hidle : s.busy = false) (hsrc : src % 4 = 0)
    (h : s.ctx.keyed = false) (hin : src + input.length ≤ 4096) :
    ∃ r, procedure (blockCall i input src dst) (readBuf dst input.length) s = .next r ∧ r.code = 2 ∧ r.output = [] ∧
      r.state.ctx = s.ctx := by
  have hexec := (hi.exec_eq (acceptCommand (encode i) (loadedState input src dst s))).trans (blockCommand_notKeyed f h)
  exact ⟨_, procedure_fails (e := .notKeyed) (perform_blockLoad hidle hsrc hin dst) hidle hwf hexec rfl (by decide), rfl, rfl,
    rfl⟩

end IsCommandOf

/-- Settles O59: `ENC`, or `DEC`, of the loaded block, read back from where the command wrote it. -/
theorem theBlockProcedureReturnsTheBlock : Obligations.TheBlockProcedureReturnsTheBlock := by
  intro s encrypt input src dst hidle hsrc hdst
  obtain ⟨hwf, hi⟩ := blockDirection encrypt
  refine ⟨fun h hlen hin hout => ?_, fun h hin => hi.procedure_notKeyed hwf hidle hsrc h hin⟩
  exact hi.procedure_returns hwf hidle hsrc hdst h hlen (hlen ▸ hin) (hlen ▸ hout)

/-! ### The chained transform (R249 c) -/

/-- The mode of the procedure's command, in both directions. -/
def chainingDirection (encrypt : Bool) : ChainingMode := if encrypt then cbcEncryption else cbcDecryption

theorem chainingDirection_runBy (encrypt : Bool) (cr : ChainReg) :
    WellFormed (if encrypt then .cbce cr else .cbcd cr) ∧
      (chainingDirection encrypt).RunBy cr (if encrypt then .cbce cr else .cbcd cr) := by
  cases encrypt with
  | false => exact ⟨rfl, ChainingMode.cbcd_runs cr⟩
  | true => exact ⟨rfl, ChainingMode.cbce_runs cr⟩

theorem chainingDirection_message (encrypt : Bool) (c : Context) (m : Nat) (r x : List Byte) :
    (chainingDirection encrypt).message c m r x = (if encrypt then cbcEncrypt else cbcDecrypt) c m r x := by
  cases encrypt with
  | false => exact ChainingMode.cbcDecryption_message c m r x
  | true => exact ChainingMode.cbcEncryption_message c m r x

/-- The writes of an initialisation vector make it the chaining value; without them the register is as the last call left it. -/
theorem perform_ivWrites {s : State} {iv : Option (List Byte)} (hidle : s.busy = false) (h : s.ctx.Legal) (cr : ChainReg)
    (hiv : ∀ v, iv = some v → v.length = blockBytes s.ctx) :
    ∃ t, perform (ivWrites cr iv) s = .next ([], t) ∧ t.busy = false ∧ t.ctx = s.ctx ∧
      chainValue t cr = iv.getD (chainValue s cr) := by
  cases iv with
  | none => exact ⟨s, rfl, hidle, rfl, rfl⟩
  | some v =>
    have hlen := hiv v rfl
    have hbytes := blockBytes_legal h
    refine ⟨_, perform_loadCr hidle cr (by omega), (State.setCr_busy ..).trans hidle, State.setCr_ctx .., ?_⟩
    rw [chainValue, State.setCr_ctx, State.setCr_cr_same, padded_of_whole (by omega)]
    exact bufTake_bufPut_of_length _ hlen (by omega)

theorem State.Ready.of_ctx {s t : State} (h : s.Ready) (hctx : t.ctx = s.ctx) : t.Ready := by rwa [State.Ready, hctx]

theorem chainedCall_eq (i : Instr) (cr : ChainReg) (iv : Option (List Byte)) (input : List Byte) (src dst : Nat) :
    ivWrites cr iv ++ chainedCall i input src dst =
      ivWrites cr iv ++ (loadBuf src input ++ [.write 0x002 (BitVec.ofNat 32 src), .write 0x003 (BitVec.ofNat 32 dst),
        .write 0x004 (BitVec.ofNat 32 input.length)]) ++ commandLine i ++ [.read 0x001] := by
  rw [chainedCall, ← List.append_assoc, ← List.append_assoc]

@[simp] theorem chainValue_acceptCommand_loadedMessage (cr : ChainReg) (d : Word) (input : List Byte) (src dst : Nat)
    (s : State) : chainValue (acceptCommand d (loadedMessage input src dst s)) cr = chainValue s cr := by cases cr <;> rfl

@[simp] theorem chainValue_rdata (cr : ChainReg) (r : Option Word) (s : State) :
    chainValue { s with rdata := r } cr = chainValue s cr := by cases cr <;> rfl

namespace ChainingMode
variable {M : ChainingMode} {cr : ChainReg} {i : Instr} {s : State} {iv : Option (List Byte)} {input : List Byte} {src dst : Nat}

/-- On the loaded message the command succeeds and computes its mode. -/
theorem RunBy.exec_loadedMessage (hi : M.RunBy cr i) (h : s.Ready) (hwhole : input.length % blockBytes s.ctx = 0)
    (hin : src + input.length ≤ 4096) (hout : dst + input.length ≤ 4096)
    (hover : dst ≤ src ∨ src + input.length ≤ dst ∨ input.length ≤ blockBytes s.ctx) :
    ∃ u, exec i (acceptCommand (encode i) (loadedMessage input src dst s)) = .next u ∧ u.err = 0 ∧ u.busy = false ∧
      u.ctx = s.ctx ∧ (memRead u.dbuf dst input.length, chainValue u cr) =
        M.message s.ctx (input.length / blockBytes s.ctx) (chainValue s cr) input := by
  have hsrc : (BitVec.ofNat 32 src).toNat = src := toNat_ofNat_of_le (by omega)
  have hdst : (BitVec.ofNat 32 dst).toNat = dst := toNat_ofNat_of_le (by omega)
  have hlen : (BitVec.ofNat 32 input.length).toNat = input.length := toNat_ofNat_of_le (by omega)
  have hready : (acceptCommand (encode i) (loadedMessage input src dst s)).ChainReady :=
    ⟨h, by simpa [hlen] using hwhole, by simpa [hsrc, hlen] using hin, by simpa [hdst, hlen] using hout⟩
  obtain ⟨u, hexec, -, herr, hbusy, -, -, -, -, -, hctx, -⟩ := hi.completes hready
  obtain ⟨u', hexec', hmsg⟩ := hi.computes hready (by simpa [hsrc, hdst, hlen, or_assoc] using hover)
  cases hexec.symm.trans hexec'
  refine ⟨u, hexec, herr, hbusy, hctx, ?_⟩
  have hblock : 4 ∣ blockBytes s.ctx := ⟨_, rfl⟩
  have hwords : input.length % 4 = 0 := Nat.mod_eq_zero_of_dvd (hblock.trans (Nat.dvd_of_mod_eq_zero hwhole))
  simpa only [acceptCommand_src, acceptCommand_dst, acceptCommand_len, acceptCommand_ctx, acceptCommand_dbuf,
    loadedMessage_src, loadedMessage_dst, loadedMessage_len, loadedMessage_ctx, loadedMessage_dbuf,
    chainValue_acceptCommand_loadedMessage, hsrc, hdst, hlen, memRead_loadedState _ _ _ hwords] using hmsg

theorem RunBy.procedure_returns (hi : M.RunBy cr i) (hwf : WellFormed i) (hidle : s.busy = false) (hsrc : src % 4 = 0)
    (hdst : dst % 4 = 0) (h : s.Ready) (hiv : ∀ v, iv = some v → v.length = blockBytes s.ctx)
    (hwhole : input.length % blockBytes s.ctx = 0) (hin : src + input.length ≤ 4096) (hout : dst + input.length ≤ 4096)
    (hover : dst ≤ src ∨ src + input.length ≤ dst ∨ input.length ≤ blockBytes s.ctx) :
    ∃ r, procedure (ivWrites cr iv ++ chainedCall i input src dst) (readBuf dst input.length) s = .next r ∧ r.code = 0 ∧
      r.state.ctx = s.ctx ∧ (r.output, chainValue r.state cr) =
        let result := M.message s.ctx (input.length / blockBytes s.ctx) (iv.getD (chainValue s cr)) input
        ((List.range (input.length / 4)).map (wordAt result.1), result.2) := by
  obtain ⟨t, hpre, hidle', hctx, hchain⟩ := perform_ivWrites hidle h.2 cr hiv
  have hload := (perform_append_silent hpre).trans (perform_messageLoad hidle' hsrc hin dst)
  rw [← hctx] at hwhole hover
  obtain ⟨u, hexec, herr, hbusy, hctx', hmsg⟩ := hi.exec_loadedMessage (h.of_ctx hctx) hwhole hin hout hover
  obtain ⟨v, hread⟩ := perform_readBuf (s := { u with rdata := some (statusWord u) }) hbusy hdst hout
  rw [chainedCall_eq]
  refine ⟨_, procedure_succeeds hload hidle' hwf hexec herr hread, herr, hctx'.trans hctx, ?_⟩
  rw [← hctx, ← hchain, ← hmsg, chainValue_rdata, chainValue_rdata]

theorem RunBy.procedure_badLength (hi : M.RunBy cr i) (hwf : WellFormed i) (hidle : s.busy = false) (hsrc : src % 4 = 0)
    (h : s.Ready) (hiv : ∀ v, iv = some v → v.length = blockBytes s.ctx)
    (hbad : input.length % blockBytes s.ctx ≠ 0) (hin : src + input.length ≤ 4096) :
    ∃ r, procedure (ivWrites cr iv ++ chainedCall i input src dst) (readBuf dst input.length) s = .next r ∧ r.code = 3 ∧
      r.output = [] ∧ r.state.ctx = s.ctx := by
  have hlen' : (BitVec.ofNat 32 input.length).toNat = input.length := toNat_ofNat_of_le (by omega)
  obtain ⟨t, hpre, hbusy, hctx, -⟩ := perform_ivWrites hidle h.2 cr hiv
  have hload := (perform_append_silent hpre).trans (perform_messageLoad hbusy hsrc hin dst)
  have hexec := (hi.exec_eq (acceptCommand (encode i) (loadedMessage input src dst t))).trans
    (chainedCommand_badLength _ (h.of_ctx hctx) (by simpa [BadLength, hctx, hlen'] using hbad))
  rw [chainedCall_eq]
  exact ⟨_, procedure_fails (e := .invalidLength) hload hbusy hwf hexec rfl (by decide), rfl, rfl, hctx⟩

end ChainingMode

/-- Settles O60: `CBCE`, or `CBCD`, of the loaded input, from the chaining value that the initialisation vector or the last call
left. -/
theorem theChainedProcedureReturnsTheMessage : Obligations.TheChainedProcedureReturnsTheMessage := by
  intro s encrypt cr iv input src dst hidle h hiv hsrc hdst hin
  obtain ⟨hwf, hi⟩ := chainingDirection_runBy encrypt cr
  refine ⟨fun hwhole hout hover => ?_, fun hbad => hi.procedure_badLength hwf hidle hsrc h hiv hbad hin⟩
  simp only [← chainingDirection_message]
  exact hi.procedure_returns hwf hidle hsrc hdst h hiv hwhole hin hout hover

end Sys2Proof.Machine
end

section
/-! The refinement of 46 R274: path by path of R273 the transitions of the control state machine add up to the effect of the
command. Along a path the hidden registers vary freely, so the state is kept in the form `x.setWork w`, `x` being what the command
level knows. -/

namespace Sys2Proof.Machine

/-! ### Transitions one after another -/

theorem ticks_succ {s t : State} (h : tick s = .next t) (n : Nat) : ticks (n + 1) s = ticks n t := by rw [ticks, h]

theorem ticks_add {m : Nat} {s t : State} (h : ticks m s = .next t) (n : Nat) : ticks (m + n) s = ticks n t := by
  induction m generalizing s with
  | zero =>
    cases h
    rw [Nat.zero_add]
  | succ m ih =>
    cases hs : tick s with
    | next u =>
      rw [ticks_succ hs] at h
      rw [Nat.succ_add, ticks_succ hs, ih h]
    | fault r => rw [ticks, hs] at h; cases h
    | refused r => rw [ticks, hs] at h; cases h

/-- After `n` transitions from `s` the machine is in `IDLE` with the architectural state `t`. -/
def State.Completes (s : State) (n : Nat) (t : State) : Prop :=
  ∃ w, ticks n s = .next (t.setWork w) ∧ w.fsm = .idle

theorem State.Completes.of_ticks {s t u : State} {m n : Nat} (h : ticks m s = .next u) (hu : u.Completes n t) :
    s.Completes (m + n) t := by
  rwa [State.Completes, ticks_add h]

theorem State.Completes.of_tick {s t u : State} {n : Nat} (h : tick s = .next u) (hu : u.Completes n t) :
    s.Completes (n + 1) t := by
  rwa [State.Completes, ticks_succ h]

/-- `DONE` ends the command with the `ERR` that `CHECK` wrote (46 R272, 60 R286). -/
theorem setErr_completes (x : State) (e : ErrorCode) {w : Work} (h : w.fsm = .done) :
    ((x.setErr e).setWork w).Completes 1 (x.finish e) := by
  have hdone : tick ((x.setErr e).setWork w) = .next (fsmDone ((x.setErr e).setWork w)) := by
    rw [tick, State.setWork_work, h]
  exact ⟨{ w with fsm := .idle }, ticks_succ hdone 0, rfl⟩

/-! ### `CHECK` (46 R262) -/

theorem fsmCheck_illegal {s : State} {why : IllegalWord} (hd : decode s.cmd = .illegal why) :
    fsmCheck s = .next ((s.setErr .illegalCommand).goto .done) := by
  rw [fsmCheck, hd]

/-- A context of 10 R25 is never the fault's. -/
theorem not_outsideInvariant {c : Context} (h : c.Ok) (i : Instr) : ¬ (needsContext i = true ∧ c.keyed = true ∧ ¬ c.Legal) :=
  fun ⟨_, hk, hl⟩ => hl (h.2 hk).1

section Check
variable {s : State} {i : Instr} (hd : decode s.cmd = .command i) (h : s.ctx.Ok)
include hd h

/-- In a context of 10 R25 a command with an error goes to `DONE`. -/
theorem fsmCheck_error {e : ErrorCode} (he : firstError i s = some e) : fsmCheck s = .next ((s.setErr e).goto .done) := by
  rw [fsmCheck, hd]
  dsimp only
  rw [if_neg (not_outsideInvariant h i), he]

/-- A command without an error goes on. -/
theorem fsmCheck_passed (hn : firstError i s = none) : fsmCheck s = .next (checkPassed i (s.setErr .ok)) := by
  rw [fsmCheck, hd]
  dsimp only
  rw [if_neg (not_outsideInvariant h i), hn]

end Check

section Start
variable (d : Word) (s : State)

/-- The checks read nothing that the start of the command writes. -/
theorem firstError_startCommand (i : Instr) : firstError i (startCommand d s) = firstError i s := by cases i <;> rfl

theorem firstError_acceptCommand (i : Instr) : firstError i (acceptCommand d s) = firstError i s := by cases i <;> rfl

end Start

/-! ### The key expansion (46 R263, R264) -/

/-- `n + 1` transitions in `KS_STEP` write the last `n + 1` words of the schedule and key the context. -/
theorem ticks_ksStep {n : Nat} {s : State} (hq : s.work.fsm = .ksStep) (hn : s.work.kidx.toNat + (n + 1) = s.ctx.rklen.toNat) :
    ∃ w : Work, w.fsm = .done ∧ ticks (n + 1) s = .next ((s.setCtx { s.ctx with
      keyed := true, rk := expandFrom s.ctx.nk.toNat (n + 1) s.work.kidx.toNat s.work.rc s.ctx.rk }).setWork w) := by
  have hstep : tick s = .next (fsmKsStep s) := by rw [tick, hq]
  induction n generalizing s with
  | zero =>
    rw [ticks_succ hstep]
    refine ⟨(fsmKsStep s).work, (fsmKsStep_last hn).2, ?_⟩
    simp [ticks, fsmKsStep, hn, expandFrom]
  | succ n ih =>
    have hmore : s.work.kidx.toNat + 1 ≠ s.ctx.rklen.toNat := by omega
    obtain ⟨hctx, hq', hidx⟩ := fsmKsStep_more hmore
    have hbound := s.ctx.rklen.isLt
    have hidx' : (fsmKsStep s).work.kidx.toNat = s.work.kidx.toNat + 1 := by
      rw [hidx, BitVec.toNat_ofNat, Nat.mod_eq_of_lt (by omega)]
    obtain ⟨w, hw, hticks⟩ := ih hq' (by rw [hidx', hctx]; dsimp only; omega) (by rw [tick, hq'])
    refine ⟨w, hw, ?_⟩
    rw [ticks_succ hstep, hticks, hidx', hctx]
    rfl

/-- From `KS_LOAD` with the word of a `SETKEY` of legal sizes the machine reaches `DONE` with the context of 41 R158. -/
theorem ticks_ksLoad {s : State} {kbits bbits : Nat} (hq : s.work.fsm = .ksLoad)
    (hd : decode s.cmd = .command (.setkey kbits bbits)) (hk : Config.LegalSize kbits) (hb : Config.LegalSize bbits) :
    ∃ w : Work, w.fsm = .done ∧ ticks (1 + (scheduleLength (wordsOfBits kbits) (wordsOfBits bbits) - wordsOfBits kbits)) s =
      .next ((commandEffect (.setkey kbits bbits) s).setWork w) := by
  have hload : tick s = .next (fsmKsLoad s) := by rw [tick, hq]
  obtain ⟨rfl, rfl⟩ := decode_setkey hd
  have hnk := legalWords_of_legalSize hk
  have hnb := legalWords_of_legalSize hb
  have hle := scheduleLength_le hnk hnb
  obtain ⟨n, hn⟩ := Nat.exists_eq_add_of_lt (lt_scheduleLength hnk hnb)
  have hcount : scheduleLength (wordsOfBits (fieldKbits s.cmd).toNat) (wordsOfBits (fieldBbits s.cmd).toNat) -
      wordsOfBits (fieldKbits s.cmd).toNat = n + 1 := by omega
  have hNk : (fsmKsLoad s).ctx.nk.toNat = wordsOfBits (fieldKbits s.cmd).toNat := keyedContext_nk [] 0 hnk
  have hLen : (fsmKsLoad s).ctx.rklen.toNat = _ := keyedContext_rklen [] hnk hnb
  have hIdx : (fsmKsLoad s).work.kidx.toNat = wordsOfBits (fieldKbits s.cmd).toNat := Nat.mod_eq_of_lt (by omega)
  obtain ⟨w, hw, hsteps⟩ := ticks_ksStep (s := fsmKsLoad s) rfl (by rw [hIdx, hLen, hn]; rfl)
  refine ⟨w, hw, ?_⟩
  rw [hNk, hIdx, ← hcount] at hsteps
  rw [Nat.add_comm, ticks_succ hload, hsteps]
  rfl

/-! ### The rounds (46 R267, R268) -/

/-- The state with the cipher state `v`, the round number `r` and the control state `q`. -/
def State.atRound (s : State) (v : Vector Column 8) (r : BitVec 4) (q : FsmState) : State :=
  s.setWork { s.work with a := v, rnd := r, fsm := q }

/-- The number of the round that comes after `k` rounds: from 0 up, or from `NR` down. -/
def loopRoundNumber (dir : Bool) (c : Context) (k : Nat) : Nat := if dir then c.nr.toNat - k else k

/-- The round that comes after `k` rounds. -/
def loopRound (dir : Bool) (c : Context) (k : Nat) (a : List Column) : List Column :=
  if dir then decryptionRound c (loopRoundNumber dir c k) a else encryptionRound c (loopRoundNumber dir c k) a

/-- The first `n` rounds of `B_ROUND`. -/
def loopRounds (dir : Bool) (c : Context) : Nat → List Column → List Column
  | 0, a => a
  | n + 1, a => loopRound dir c n (loopRounds dir c n a)

section Rounds
variable {c : Context} {a : List Column}

theorem loopRound_encryption (k : Nat) : loopRound false c k a = encryptionRound c k a := rfl

theorem loopRound_decryption (k : Nat) : loopRound true c k a = decryptionRound c (c.nr.toNat - k) a := rfl

theorem loopRound_length (h : c.Legal) (dir : Bool) {k : Nat} (hk : k ≤ c.nr.toNat) (ha : a.length = c.nb.toNat) :
    (loopRound dir c k a).length = c.nb.toNat := by
  cases dir with
  | false =>
    rw [loopRound_encryption, encryptionRound]
    split_ifs
    · exact addRoundKey_length h (Nat.zero_le _) ha
    · exact addRoundKey_length h hk (by simp)
    · exact addRoundKey_length h (le_refl _) (by simp)
  | true =>
    rw [loopRound_decryption, decryptionRound]
    split_ifs
    · exact inverseFinalRound_length
    · exact inverseRound_length _
    · exact addRoundKey_length h (Nat.zero_le _) ha

theorem loopRounds_length (h : c.Legal) (dir : Bool) {n : Nat} (hn : n ≤ c.nr.toNat + 1) (ha : a.length = c.nb.toNat) :
    (loopRounds dir c n a).length = c.nb.toNat := by
  induction n with
  | zero => exact ha
  | succ n ih => exact loopRound_length h dir (by omega) (ih (by omega))

/-- Round 0, then the rounds of R200 one by one. -/
theorem loopRounds_encryption {k : Nat} (hk : k < c.nr.toNat) :
    loopRounds false c (k + 1) a = forwardRounds c k (addRoundKey c a 0) := by
  induction k with
  | zero => rfl
  | succ k ih =>
    rw [loopRounds, ih (by omega), loopRound_encryption, encryptionRound, if_neg (Nat.succ_ne_zero k), if_pos hk, forwardRounds]

/-- Round `NR`, then the inverse rounds of R201 one by one; what is left of them gives the rest. -/
theorem inverseRounds_loopRounds_decryption {k m : Nat} (hk : k + m + 1 = c.nr.toNat) :
    inverseRounds c m (loopRounds true c (k + 1) a) = inverseRounds c (c.nr.toNat - 1) (inverseFinalRound c a) := by
  induction k generalizing m with
  | zero =>
    have hm : c.nr.toNat - 1 = m := by omega
    rw [loopRounds, loopRound_decryption, Nat.sub_zero, decryptionRound, if_pos rfl, loopRounds, hm]
  | succ k ih =>
    have hround : loopRounds true c (k + 1 + 1) a = inverseRound c (loopRounds true c (k + 1) a) (m + 1) := by
      have hm : c.nr.toNat - (k + 1) = m + 1 := by omega
      rw [loopRounds, loopRound_decryption, hm, decryptionRound, if_neg (by omega), if_pos (Nat.succ_pos m)]
    rw [hround, ← ih (m := m + 1) (by omega), inverseRounds]

/-- All `NR + 1` rounds are the block function (43 R200, R201). -/
theorem loopRounds_all (h : c.Legal) (dir : Bool) :
    loopRounds dir c (c.nr.toNat + 1) a = if dir then decryptState c a else encryptState c a := by
  obtain ⟨n, hn⟩ : ∃ n, c.nr.toNat = n + 1 := by
    obtain ⟨-, -, hnr, -⟩ := h
    exact ⟨_, hnr⟩
  have hpos : c.nr.toNat ≠ 0 := by omega
  cases dir with
  | false =>
    have hlast : loopRounds false c c.nr.toNat a = forwardRounds c (c.nr.toNat - 1) (addRoundKey c a 0) := by
      rw [hn]
      exact loopRounds_encryption (by omega)
    rw [loopRounds, hlast, loopRound_encryption, encryptionRound, if_neg hpos, if_neg (Nat.lt_irrefl _), if_neg nofun,
      encryptState]
  | true =>
    have hlast : loopRounds true c c.nr.toNat a = inverseRounds c (c.nr.toNat - 1) (inverseFinalRound c a) := by
      conv_lhs => rw [hn]
      exact inverseRounds_loopRounds_decryption (m := 0) hn.symm
    rw [loopRounds, hlast, loopRound_decryption, Nat.sub_self, decryptionRound, if_neg hpos.symm, if_neg (Nat.lt_irrefl 0),
      if_pos rfl, decryptState]

end Rounds

theorem blockBytes_le {c : Context} (h : c.Legal) : blockBytes c ≤ 32 := by
  have := blockBytes_legal h
  omega

theorem nb_le {c : Context} (h : c.Legal) : c.nb.toNat ≤ 8 := by
  obtain ⟨hnb, -⟩ := h
  omega

theorem bufTake_bufPut_columns {n k : Nat} (v : Vector Column n) {xs : List Column} (hxs : xs.length = k) (hk : k ≤ n) :
    bufTake (bufPut v xs) k = xs := by
  subst hxs
  exact bufTake_bufPut v hk

section Ticks
variable {s : State} {v : Vector Column 8} {r : BitVec 4}

/-- One transition in `B_ROUND` is one round; the round number counts, and the last round goes to `B_POST`. -/
theorem tick_bRound {k : Nat} (hk : k ≤ s.ctx.nr.toNat) (hr : r.toNat = loopRoundNumber s.work.dir s.ctx k) :
    ∃ r' : BitVec 4, (k + 1 ≤ s.ctx.nr.toNat → r'.toNat = loopRoundNumber s.work.dir s.ctx (k + 1)) ∧
      tick (s.atRound v r .bRound) =
        .next (s.atRound (bufPut v (loopRound s.work.dir s.ctx k (bufTake v s.ctx.nb.toNat))) r'
          (if k = s.ctx.nr.toNat then .bPost else .bRound)) := by
  change ∃ r', _ ∧ Host.Outcome.next (fsmRound (s.atRound v r .bRound)) = _
  have hnr := s.ctx.nr.isLt
  rw [loopRound, ← hr]
  cases hdir : s.work.dir with
  | false =>
    have hk' : r.toNat = k := by rw [hr, hdir]; rfl
    refine ⟨if r.toNat = s.ctx.nr.toNat then r else BitVec.ofNat 4 (r.toNat + 1), fun hlt => ?_, ?_⟩
    · rw [if_neg (by omega), BitVec.toNat_ofNat, hk', Nat.mod_eq_of_lt (by omega)]
      rfl
    · have hdir' : (s.atRound v r .bRound).work.dir = false := hdir
      rw [← hk', fsmRound, hdir']
      rfl
  | true =>
    have hk' : r.toNat = s.ctx.nr.toNat - k := by rw [hr, hdir]; rfl
    have hlast : k = s.ctx.nr.toNat ↔ r.toNat = 0 := by omega
    refine ⟨if r.toNat = 0 then r else BitVec.ofNat 4 (r.toNat - 1), fun hlt => ?_, ?_⟩
    · rw [if_neg (by omega), BitVec.toNat_ofNat, hk', Nat.mod_eq_of_lt (by omega)]
      rfl
    · have hdir' : (s.atRound v r .bRound).work.dir = true := hdir
      rw [if_congr hlast rfl rfl, fsmRound, hdir']
      rfl

/-- `k` transitions in `B_ROUND` are the first `k` rounds. -/
theorem ticks_bRound (h : s.ctx.Legal) (hr : r.toNat = loopRoundNumber s.work.dir s.ctx 0) {k : Nat}
    (hk : k ≤ s.ctx.nr.toNat + 1) :
    ∃ v' r', bufTake v' s.ctx.nb.toNat = loopRounds s.work.dir s.ctx k (bufTake v s.ctx.nb.toNat) ∧
      (k ≤ s.ctx.nr.toNat → r'.toNat = loopRoundNumber s.work.dir s.ctx k) ∧
      ticks k (s.atRound v r .bRound) = .next (s.atRound v' r' (if k = s.ctx.nr.toNat + 1 then .bPost else .bRound)) := by
  have hlen := bufTake_length v (nb_le h)
  induction k with
  | zero => exact ⟨v, r, rfl, fun _ => hr, rfl⟩
  | succ k ih =>
    have hk' : k ≤ s.ctx.nr.toNat := Nat.le_of_succ_le_succ hk
    obtain ⟨v', r', hv', hr', hticks⟩ := ih (by omega)
    rw [if_neg (by omega)] at hticks
    obtain ⟨r'', hr'', htick⟩ := tick_bRound (v := v') hk' (hr' hk')
    rw [hv'] at htick
    refine ⟨bufPut v' (loopRounds s.work.dir s.ctx (k + 1) (bufTake v s.ctx.nb.toNat)), r'',
      bufTake_bufPut_columns _ (loopRounds_length h _ hk hlen) (nb_le h), hr'', ?_⟩
    rw [ticks_add hticks, ticks_succ htick, if_congr Nat.succ_inj rfl rfl]
    rfl

end Ticks

/-! ### A block (46 R265 to R271) -/

/-- The input of the cipher: for `CBCE` the chaining value is added (46 R266). -/
def cipherInput (dir chain : Bool) (r x : List Byte) : List Byte := if chain = true ∧ dir = false then xorBytes x r else x

/-- The output block: for `CBCD` the chaining value is added (46 R269). -/
def cipherOutput (dir chain : Bool) (r y : List Byte) : List Byte := if chain = true ∧ dir = true then xorBytes y r else y

/-- The block function of a direction. -/
def loopCipher (dir : Bool) : Context → List Byte → List Byte := if dir then decryptBlock else encryptBlock

/-- The output block from the input block and the chaining value. -/
def loopOutput (dir chain : Bool) (c : Context) (r x : List Byte) : List Byte :=
  cipherOutput dir chain r (loopCipher dir c (cipherInput dir chain r x))

/-- What `B_STORE` and `B_CHAIN` do to the architectural state for block `i` (46 R270, R271). -/
def storeBlock (dir chain : Bool) (cr : ChainReg) (i : Nat) (inp out : List Byte) (s : State) : State :=
  let t := s.setDbuf (memWrite s.dbuf (dstBlock s i) out)
  if chain then setChainValue t cr (if dir then inp else out) else t

/-- What the block loop does to the architectural state for block `i`. -/
def loopBlock (dir chain : Bool) (cr : ChainReg) (i : Nat) (s : State) : State :=
  let inp := memRead s.dbuf (srcBlock s i) (blockBytes s.ctx)
  storeBlock dir chain cr i inp (loopOutput dir chain s.ctx (chainValue s cr) inp) s

theorem loopBlock_cbce (cr : ChainReg) : loopBlock false true cr = cbceBlock cr := rfl

theorem loopBlock_cbcd (cr : ChainReg) : loopBlock true true cr = cbcdBlock cr := rfl

theorem loopBlock_enc (cr : ChainReg) : loopBlock false false cr 0 = transformBlock encryptBlock := rfl

theorem loopBlock_dec (cr : ChainReg) : loopBlock true false cr 0 = transformBlock decryptBlock := rfl

section LoopBlock
variable (dir chain : Bool) (cr : ChainReg) (i : Nat) (s : State)

theorem storeBlock_setWork (inp out : List Byte) (w : Work) :
    storeBlock dir chain cr i inp out (s.setWork w) = (storeBlock dir chain cr i inp out s).setWork w := by
  cases chain with
  | false => rfl
  | true => cases cr <;> rfl

@[simp] theorem storeBlock_work (inp out : List Byte) : (storeBlock dir chain cr i inp out s).work = s.work := by
  cases chain <;> simp [storeBlock]

theorem loopBlock_setWork (w : Work) : loopBlock dir chain cr i (s.setWork w) = (loopBlock dir chain cr i s).setWork w := by
  rw [loopBlock, storeBlock_setWork, loopBlock, chainValue, State.setWork_cr]
  rfl

theorem loopBlock_setErr (e : ErrorCode) : loopBlock dir chain cr i (s.setErr e) = (loopBlock dir chain cr i s).setErr e := by
  cases chain with
  | false => rfl
  | true => cases cr <;> rfl

theorem loopBlock_ctx : (loopBlock dir chain cr i s).ctx = s.ctx := by cases chain <;> simp [loopBlock, storeBlock]

theorem loopBlock_cmd : (loopBlock dir chain cr i s).cmd = s.cmd := by cases chain <;> simp [loopBlock, storeBlock]

end LoopBlock

section Lengths
variable {c : Context}

theorem loopCipher_length (h : c.Legal) (dir : Bool) (p : List Byte) : (loopCipher dir c p).length = blockBytes c := by
  cases dir with
  | false => exact encryptBlock_length h p
  | true => exact decryptBlock_length h p

theorem loopOutput_length (h : c.Legal) (dir chain : Bool) {r : List Byte} (hr : r.length = blockBytes c) (x : List Byte) :
    (loopOutput dir chain c r x).length = blockBytes c := by
  rw [loopOutput, cipherOutput]
  split
  · exact xorBytes_length (loopCipher_length h dir _) hr
  · exact loopCipher_length h dir _

/-- The rounds between the load and the store of the cipher state are the block function. -/
theorem storeState_loopRounds (h : c.Legal) (dir : Bool) (p : List Byte) :
    storeState (loopRounds dir c (c.nr.toNat + 1) (loadState p c.nb.toNat)) = loopCipher dir c p := by
  rw [loopRounds_all h]
  cases dir <;> rfl

end Lengths

/-- The latches and counters of a data command of `N` blocks with `n` blocks done. -/
structure Work.InLoop (dir chain : Bool) (N n : Nat) (w : Work) : Prop where
  dir : w.dir = dir
  chain : w.chain = chain
  nblk : w.nblk.toNat = N
  blk : w.blk.toNat = n
  fsm : w.fsm = if n < N then .bFetch else .done

/-- The hidden registers after `B_CHAIN` (46 R271). -/
def Work.nextBlock (w : Work) : Work :=
  { w with blk := w.blk + 1, fsm := if (w.blk + 1).toNat < w.nblk.toNat then .bFetch else .done }

theorem Work.InLoop.nextBlock {dir chain : Bool} {N n : Nat} {w w' : Work} (h : w.InLoop dir chain N n) (hn : n < N)
    (hdir : w'.dir = w.dir) (hchain : w'.chain = w.chain) (hnblk : w'.nblk = w.nblk) (hblk : w'.blk = w.blk) :
    w'.nextBlock.InLoop dir chain N (n + 1) := by
  have hbound : w.nblk.toNat < 2 ^ 32 := w.nblk.isLt
  have hN := h.nblk
  have hone : (1 : Word).toNat = 1 := rfl
  have hblk' : (w'.blk + 1).toNat = n + 1 := by
    rw [BitVec.toNat_add, hblk, h.blk, hone]
    exact Nat.mod_eq_of_lt (by omega)
  exact ⟨hdir.trans h.dir, hchain.trans h.chain, hnblk ▸ hN, hblk', by rw [Work.nextBlock, hblk', hnblk, hN]⟩

section Block
variable {s : State}

/-- `B_FETCH`, `B_PRE`: the input block is held, and the rounds begin. -/
theorem ticks_fetch_pre (h : s.ctx.Legal) (hq : s.work.fsm = .bFetch) :
    ∃ v r, bufTake v s.ctx.nb.toNat = loadState (cipherInput s.work.dir s.work.chain (chainValue s (fsmCr s))
        (fsmIn (fsmFetch s))) s.ctx.nb.toNat ∧
      r.toNat = loopRoundNumber s.work.dir s.ctx 0 ∧ ticks 2 s = .next ((fsmFetch s).atRound v r .bRound) := by
  have hfetch : tick s = .next (fsmFetch s) := by rw [tick, hq]
  refine ⟨_, if s.work.dir then s.ctx.nr else 0, bufTake_bufPut_columns s.work.a (loadState_length _ _) (nb_le h), ?_, ?_⟩
  · cases s.work.dir <;> rfl
  · rw [ticks_succ hfetch]
    rfl

theorem setChainValue_goto (s : State) (q : FsmState) (cr : ChainReg) (v : List Byte) :
    setChainValue (s.goto q) cr v = (setChainValue s cr v).goto q := by cases cr <;> rfl

theorem fsmUpdateChain_fsmStore (s : State) : fsmUpdateChain (fsmStore s) =
    (storeBlock s.work.dir s.work.chain (fsmCr s) s.work.blk.toNat (fsmIn s) (fsmOut s) s).goto .bChain := by
  have hdir : (fsmStore s).work.dir = s.work.dir := rfl
  have hchain : (fsmStore s).work.chain = s.work.chain := rfl
  rw [fsmUpdateChain, storeBlock, hdir, hchain]
  cases s.work.chain with
  | false => rfl
  | true => cases s.work.dir <;> exact setChainValue_goto ..

/-- `B_STORE`, `B_CHAIN`: the block `OUT` is stored and the register updated. -/
theorem fsmChain_fsmStore (s : State) : fsmChain (fsmStore s) =
    (storeBlock s.work.dir s.work.chain (fsmCr s) s.work.blk.toNat (fsmIn s) (fsmOut s) s).setWork s.work.nextBlock := by
  have hblk : (fsmStore s).work.blk = s.work.blk := rfl
  have hnblk : (fsmStore s).work.nblk = s.work.nblk := rfl
  rw [fsmChain, fsmUpdateChain_fsmStore, State.goto_work, storeBlock_work, hblk, hnblk]
  rfl

/-- `B_POST` after the rounds: `OUT` holds the output block. -/
theorem fsmOut_fsmPost (h : s.ctx.Legal) {v : Vector Column 8} (r : BitVec 4) {x : List Byte}
    (hv : bufTake v s.ctx.nb.toNat = loopRounds s.work.dir s.ctx (s.ctx.nr.toNat + 1)
      (loadState (cipherInput s.work.dir s.work.chain (chainValue s (fsmCr s)) x) s.ctx.nb.toNat)) :
    fsmOut (fsmPost (s.atRound v r .bPost)) = loopOutput s.work.dir s.work.chain s.ctx (chainValue s (fsmCr s)) x := by
  have hpost : cipherOutput s.work.dir s.work.chain (chainValue s (fsmCr s)) (storeState (bufTake v s.ctx.nb.toNat)) =
      loopOutput s.work.dir s.work.chain s.ctx (chainValue s (fsmCr s)) x := by
    rw [hv, storeState_loopRounds h, loopOutput]
  have hlen := loopOutput_length h s.work.dir s.work.chain (chainValue_length h (fsmCr s)) x
  rw [← hpost] at hlen ⊢
  exact bufTake_bufPut_of_length _ hlen (blockBytes_le h)

/-- The `NR + 6` transitions of a block. -/
theorem ticks_block {dir chain : Bool} {N n : Nat} (h : s.ctx.Legal) (hs : s.work.InLoop dir chain N n) (hn : n < N) :
    ∃ w : Work, w.InLoop dir chain N (n + 1) ∧
      ticks (s.ctx.nr.toNat + 6) s = .next ((loopBlock dir chain (fsmCr s) n s).setWork w) := by
  have hnext {w : Work} := hs.nextBlock (w' := w) hn
  obtain ⟨rfl, rfl, -, rfl, hq⟩ := hs
  have hin : fsmIn (fsmFetch s) = memRead s.dbuf (srcBlock s s.work.blk.toNat) (blockBytes s.ctx) :=
    bufTake_bufPut_of_length _ (memRead_length ..) (blockBytes_le h)
  obtain ⟨v, r, hv, hr, hpre⟩ := ticks_fetch_pre h (hq.trans (if_pos hn))
  obtain ⟨v', r', hv', -, hrounds⟩ := ticks_bRound (s := fsmFetch s) (v := v) h hr (le_refl _)
  rw [if_pos rfl] at hrounds
  have hout := fsmOut_fsmPost (s := fsmFetch s) h r' (hv'.trans (congrArg _ hv))
  let w := (fsmPost ((fsmFetch s).atRound v' r' .bPost)).work
  refine ⟨w.nextBlock, hnext rfl rfl rfl rfl, ?_⟩
  calc ticks (s.ctx.nr.toNat + 6) s
      = ticks (2 + (s.ctx.nr.toNat + 1 + 3)) s := congrArg (ticks · s) (by omega)
    _ = ticks 3 ((fsmFetch s).atRound v' r' .bPost) := (ticks_add hpre _).trans (ticks_add hrounds 3)
    _ = .next (fsmChain (fsmStore (fsmPost ((fsmFetch s).atRound v' r' .bPost)))) := rfl
    _ = .next ((storeBlock s.work.dir s.work.chain (fsmCr s) s.work.blk.toNat (fsmIn (fsmFetch s))
          (loopOutput s.work.dir s.work.chain s.ctx (chainValue s (fsmCr s)) (fsmIn (fsmFetch s))) (s.setWork w)).setWork
            w.nextBlock) := by rw [fsmChain_fsmStore, hout]; rfl
    _ = .next ((loopBlock s.work.dir s.work.chain (fsmCr s) s.work.blk.toNat s).setWork w.nextBlock) := by
      rw [storeBlock_setWork, hin]; rfl

end Block

/-! ### The block loop (46 R262, R271) -/

theorem runBlocks_comm {f : Nat → State → State} {g : State → State} (h : ∀ i s, f i (g s) = g (f i s)) (n : Nat)
    (s : State) : runBlocks f n (g s) = g (runBlocks f n s) := by
  induction n with
  | zero => rfl
  | succ n ih => rw [runBlocks, ih, h, runBlocks]

section Loop
variable {dir chain : Bool} {N : Nat} {s : State}

/-- The first `n` blocks of the loop are the first `n` blocks of the command. -/
theorem ticks_loop (h : s.ctx.Legal) (hs : s.work.InLoop dir chain N 0) {n : Nat} (hn : n ≤ N) :
    ∃ w : Work, w.InLoop dir chain N n ∧ ticks (n * (s.ctx.nr.toNat + 6)) s =
      .next ((runBlocks (loopBlock dir chain (fsmCr s)) n s).setWork w) := by
  induction n with
  | zero => exact ⟨s.work, hs, by rw [Nat.zero_mul]; rfl⟩
  | succ n ih =>
    obtain ⟨w, hw, hticks⟩ := ih (Nat.le_of_succ_le hn)
    let t := (runBlocks (loopBlock dir chain (fsmCr s)) n s).setWork w
    have hctx : t.ctx = s.ctx := runBlocks_keeps State.ctx (loopBlock_ctx dir chain _) n s
    have hcr : fsmCr t = fsmCr s := congrArg fieldCr (runBlocks_keeps State.cmd (loopBlock_cmd dir chain _) n s)
    obtain ⟨w', hw', hblock⟩ := ticks_block (s := t) (hctx ▸ h) hw hn
    refine ⟨w', hw', ?_⟩
    rw [hctx, hcr, loopBlock_setWork] at hblock
    rw [Nat.succ_mul, ticks_add hticks, hblock]
    rfl

/-- The path of a data command of `N` blocks, after `CHECK`. -/
theorem startBlocks_completes (h : s.ctx.Legal) (hN : N < 2 ^ 32) :
    (startBlocks dir chain N ((s.goto .check).setErr .ok)).Completes (N * (s.ctx.nr.toNat + 6) + 1)
      ((runBlocks (loopBlock dir chain (fieldCr s.cmd)) N s).finish .ok) := by
  let w : Work := (startBlocks dir chain N ((s.goto .check).setErr .ok)).work
  have hw : w.InLoop dir chain N 0 :=
    ⟨rfl, rfl, Nat.mod_eq_of_lt hN, rfl, by cases N <;> rfl⟩
  obtain ⟨w', hw', hticks⟩ := ticks_loop (s := (s.setErr .ok).setWork w) h hw (le_refl N)
  rw [runBlocks_comm (fun i s => loopBlock_setWork dir chain _ i s w),
    runBlocks_comm (fun i s => loopBlock_setErr dir chain _ i s .ok)] at hticks
  exact .of_ticks hticks (setErr_completes _ .ok (hw'.fsm.trans (if_neg (Nat.lt_irrefl N))))

end Loop

/-! ### The command -/

/-- The register of a decoded chained command is the one that bit 0 of its word names (30 R94). -/
theorem decode_chained {w : Word} {cr : ChainReg} (h : decode w = .command (.cbce cr) ∨ decode w = .command (.cbcd cr)) :
    cr = fieldCr w := by
  rcases h with h | h <;>
    rcases decode_cases h with ⟨-, -, hi⟩ | ⟨-, -, hi⟩ | ⟨-, -, hi⟩ | ⟨-, -, hi⟩ | ⟨-, -, hi⟩ <;> cases hi <;> rfl

theorem blockCount_lt (s : State) : blockCount s < 2 ^ 32 := (Nat.div_le_self _ _).trans_lt s.len.isLt

/-- The transitions of R273's path after `CHECK` has passed. -/
def transitionsAfterCheck (i : Instr) (s : State) : Nat :=
  match i with
  | .setkey kbits bbits => 1 + (scheduleLength (wordsOfBits kbits) (wordsOfBits bbits) - wordsOfBits kbits) + 1
  | .enc => 1 * (s.ctx.nr.toNat + 6) + 1
  | .dec => 1 * (s.ctx.nr.toNat + 6) + 1
  | .cbce _ => blockCount s * (s.ctx.nr.toNat + 6) + 1
  | .cbcd _ => blockCount s * (s.ctx.nr.toNat + 6) + 1

section Command
variable {d : Word} {s : State} {i : Instr}

theorem pathLength_illegal {why : IllegalWord} (hd : decode d = .illegal why) : pathLength d s = 2 := by rw [pathLength, hd]

theorem pathLength_error {e : ErrorCode} (hd : decode d = .command i) (he : firstError i s = some e) : pathLength d s = 2 := by
  rw [pathLength, hd]
  dsimp only
  rw [he]

theorem pathLength_passed (hd : decode d = .command i) (hn : firstError i s = none) :
    pathLength d s = transitionsAfterCheck i s + 1 := by
  rw [pathLength, hd]
  dsimp only
  rw [hn]
  cases i <;> dsimp only [transitionsAfterCheck] <;> omega

/-- After `CHECK` has passed, the machine does what the command does. -/
theorem checkPassed_completes (hd : decode d = .command i) (hn : firstError i s = none) (hl : DataCommand i → s.ctx.Legal) :
    (checkPassed i ((startCommand d s).setErr .ok)).Completes (transitionsAfterCheck i s)
      ((commandEffect i (acceptCommand d s)).finish .ok) := by
  cases i with
  | setkey kbits bbits =>
    obtain ⟨hk, hb⟩ := firstError_setkey_none hn
    obtain ⟨w, hw, hticks⟩ := ticks_ksLoad (s := ((startCommand d s).setErr .ok).goto .ksLoad) rfl hd hk hb
    exact .of_ticks hticks (setErr_completes (commandEffect (.setkey kbits bbits) (acceptCommand d s)) .ok hw)
  | enc => exact startBlocks_completes (s := acceptCommand d s) (hl nofun) (by decide)
  | dec => exact startBlocks_completes (s := acceptCommand d s) (hl nofun) (by decide)
  | cbce cr =>
    obtain rfl := decode_chained (.inl hd)
    exact startBlocks_completes (s := acceptCommand d s) (hl nofun) (blockCount_lt s)
  | cbcd cr =>
    obtain rfl := decode_chained (.inr hd)
    exact startBlocks_completes (s := acceptCommand d s) (hl nofun) (blockCount_lt s)

/-- The transitions of R273's path for a word add up to what its `CMD` write does at the command level. -/
theorem startCommand_completes (hok : s.ctx.Ok) {t : State} (ht : issue d s = .next t) :
    (startCommand d s).Completes (pathLength d s) t := by
  cases hd : decode d with
  | illegal why =>
    rw [issue_illegal hd] at ht
    cases ht
    rw [pathLength_illegal hd]
    exact .of_tick (fsmCheck_illegal hd) (setErr_completes (acceptCommand d s) .illegalCommand rfl)
  | command i =>
    rw [issue_command hd] at ht
    have hcmd : (acceptCommand d s).setCmd (encode i) = acceptCommand d s := by rw [encode_of_decode hd]; rfl
    rcases exec_cases ht with ⟨e, he, rfl⟩ | ⟨hn, hl, rfl⟩ <;> rw [hcmd]
    · rw [firstError_acceptCommand] at he
      have hcheck := fsmCheck_error (s := startCommand d s) hd hok ((firstError_startCommand d s i).trans he)
      rw [pathLength_error hd he]
      exact .of_tick hcheck (setErr_completes (acceptCommand d s) e rfl)
    · rw [firstError_acceptCommand] at hn
      have hcheck := fsmCheck_passed (s := startCommand d s) hd hok ((firstError_startCommand d s i).trans hn)
      rw [pathLength_passed hd hn]
      exact .of_tick hcheck (checkPassed_completes hd hn hl)

end Command

/-- Settles O51, path by path (`startCommand_completes`): an illegal word or an error goes from `CHECK` to `DONE`, `SETKEY`
through the key expansion, a data command through its blocks. -/
theorem theStateMachineRefinesTheCommands : Obligations.TheStateMachineRefinesTheCommands := by
  intro s d hok _ _
  obtain ⟨t, ht⟩ := issue_completes d hok
  obtain ⟨w, hticks, hidle⟩ := startCommand_completes hok ht
  exact ⟨t, t.setWork w, ht, hticks, hidle, rfl⟩

end Sys2Proof.Machine
end

section
/-! The errors of the commands: the cause of each code (60 R281 to R284), the order in which causes count (R287), and that an error
is the whole effect of its command (R286). -/

namespace Sys2Proof.Machine

theorem errCode_injective : Function.Injective errCode := fun a b => by cases a <;> cases b <;> decide

section Causes
variable {chained : Bool} {n : Nat} {e : ErrorCode} {i : Instr} {s t : State}

/-- The errors of a data command with their causes, each with the causes before it ruled out (60 R287). -/
theorem dataError_eq_some_iff :
    dataError chained n s = some e ↔
      (e = .notKeyed ∧ s.ctx.keyed = false) ∨
      (e = .invalidLength ∧ s.ctx.keyed = true ∧ chained = true ∧ BadLength s) ∨
      (e = .addressRange ∧ s.ctx.keyed = true ∧ ¬ (chained = true ∧ BadLength s) ∧ OutOfRange s n) := by
  rw [dataError]
  split_ifs with hk hb hr
  · simp [hk, eq_comm (b := e)]
  · simp [hk, hb, eq_comm (b := e)]
  · simp [hk, hb, hr, eq_comm (b := e)]
  · simp [hk, hb, hr]

theorem firstError_eq_invalidParameter_iff :
    firstError i s = some .invalidParameter ↔
      ∃ kbits bbits, i = .setkey kbits bbits ∧ ¬ (Config.LegalSize kbits ∧ Config.LegalSize bbits) := by
  cases i <;> simp [firstError, dataError_eq_some_iff]

theorem firstError_eq_notKeyed_iff : firstError i s = some .notKeyed ↔ DataCommand i ∧ s.ctx.keyed = false := by
  cases i <;> simp [firstError, dataError_eq_some_iff, DataCommand]

theorem firstError_eq_invalidLength_iff :
    firstError i s = some .invalidLength ↔
      (∃ cr, i = .cbce cr ∨ i = .cbcd cr) ∧ s.ctx.keyed = true ∧ BadLength s := by
  cases i <;> simp [firstError, dataError_eq_some_iff]

theorem firstError_eq_addressRange_iff :
    firstError i s = some .addressRange ↔
      ((i = .enc ∨ i = .dec) ∧ s.ctx.keyed = true ∧ OutOfRange s (blockBytes s.ctx)) ∨
      ((∃ cr, i = .cbce cr ∨ i = .cbcd cr) ∧ s.ctx.keyed = true ∧ s.len.toNat % blockBytes s.ctx = 0 ∧
        OutOfRange s s.len.toNat) := by
  cases i <;> simp [firstError, dataError_eq_some_iff]

/-- A word that decodes is past the check for `IllegalCommand` (60 R287). -/
theorem firstError_ne_illegalCommand : firstError i s ≠ some .illegalCommand := by
  cases i <;> simp [firstError, dataError_eq_some_iff]

/-! ### From the cause to the end of the command -/

theorem blockCommand_error (f : Context → List Byte → List Byte) (hl : s.ctx.keyed = true → s.ctx.Legal)
    (he : dataError false (blockBytes s.ctx) s = some e) : blockCommand f s = .next (s.finish e) := by
  rcases dataError_eq_some_iff.1 he with ⟨rfl, hk⟩ | ⟨-, -, hc, -⟩ | ⟨rfl, hk, -, hr⟩
  · exact blockCommand_notKeyed f hk
  · cases hc
  · exact blockCommand_outOfRange f ⟨hk, hl hk⟩ hr

theorem chainedCommand_error (f : Nat → State → State) (hl : s.ctx.keyed = true → s.ctx.Legal)
    (he : dataError true s.len.toNat s = some e) : chainedCommand f s = .next (s.finish e) := by
  rcases dataError_eq_some_iff.1 he with ⟨rfl, hk⟩ | ⟨rfl, hk, -, hb⟩ | ⟨rfl, hk, hb, hr⟩
  · exact chainedCommand_notKeyed f hk
  · exact chainedCommand_badLength f ⟨hk, hl hk⟩ hb
  · exact chainedCommand_outOfRange f ⟨hk, hl hk⟩ (fun h => hb ⟨rfl, h⟩) hr

/-- A data command with an error ends with the first one, and this is its whole effect (60 R286, R287). -/
theorem exec_error (hi : DataCommand i) (hl : s.ctx.keyed = true → s.ctx.Legal) (he : firstError i s = some e) :
    exec i s = .next ((s.setCmd (encode i)).finish e) := by
  cases i with
  | setkey kbits bbits => exact absurd rfl (hi kbits bbits)
  | enc => exact blockCommand_error (s := s.setCmd (encode .enc)) _ hl he
  | dec => exact blockCommand_error (s := s.setCmd (encode .dec)) _ hl he
  | cbce cr => exact chainedCommand_error (s := s.setCmd (encode (.cbce cr))) _ hl he
  | cbcd cr => exact chainedCommand_error (s := s.setCmd (encode (.cbcd cr))) _ hl he

theorem exec_error_of_ready (hi : DataCommand i) (h : s.Ready) (he : firstError i s = some e) :
    exec i s = .next ((s.setCmd (encode i)).finish e) :=
  exec_error hi (fun _ => h.2) he

theorem exec_error_of_unkeyed (hi : DataCommand i) (hk : s.ctx.keyed = false) :
    exec i s = .next ((s.setCmd (encode i)).finish .notKeyed) :=
  exec_error hi (fun h => absurd (hk.symm.trans h) (by decide)) (firstError_eq_notKeyed_iff.2 ⟨hi, hk⟩)

/-! ### From the code reported back to the cause -/

/-- `ERR` after a command is the code of its first error, or 0. -/
theorem exec_err (h : exec i s = .next t) : t.err = errCode ((firstError i s).getD .ok) := by
  rcases exec_cases h with ⟨e, he, rfl⟩ | ⟨hn, -, rfl⟩
  · rw [he]; rfl
  · rw [hn]; rfl

theorem exec_err_eq_iff (h : exec i s = .next t) (he : e ≠ .ok) : t.err = errCode e ↔ firstError i s = some e := by
  rw [exec_err h, errCode_injective.eq_iff]
  cases hf : firstError i s with
  | none => simpa using he.symm
  | some e' => simp

end Causes

theorem dataCommand_of_chained {i : Instr} (h : ∃ cr, i = .cbce cr ∨ i = .cbcd cr) : DataCommand i := by
  obtain ⟨cr, rfl | rfl⟩ := h <;> simp [DataCommand]

theorem dataCommand_of_block {i : Instr} (h : i = .enc ∨ i = .dec) : DataCommand i := by
  rcases h with rfl | rfl <;> simp [DataCommand]

/-! ### The statements -/

/-- Settles O33: each clause names the first error, and a command's first error is its whole effect (`exec_error`). -/
theorem errorsAreReportedInPriorityOrder : Obligations.ErrorsAreReportedInPriorityOrder := by
  refine fun s => ⟨fun d why hd => ?illegal, fun kbits bbits hl => ?parameter, fun i hi hk => ?unkeyed,
    fun i hi h hb => ?length, fun i hi h hr => ?blockRange, fun i hi h hb hr => ?chainedRange⟩
  case illegal => exact issue_illegal hd s
  case parameter => exact execSetkey_illegal hl s
  case unkeyed => exact exec_error_of_unkeyed hi hk
  case length =>
    exact exec_error_of_ready (dataCommand_of_chained hi) h (firstError_eq_invalidLength_iff.2 ⟨hi, h.1, hb⟩)
  case blockRange =>
    exact exec_error_of_ready (dataCommand_of_block hi) h (firstError_eq_addressRange_iff.2 (.inl ⟨hi, h.1, hr⟩))
  case chainedRange =>
    exact exec_error_of_ready (dataCommand_of_chained hi) h
      (firstError_eq_addressRange_iff.2 (.inr ⟨hi, h.1, hb, hr⟩))

/-- Settles O34: `ERR` names the first error (`exec_err_eq_iff`), and each error is first exactly on its cause. -/
theorem errorCodesHaveExactlyTheirCauses : Obligations.ErrorCodesHaveExactlyTheirCauses := by
  intro i s t h
  have hcode (e : ErrorCode) (he : e ≠ .ok) : t.err = errCode e ↔ firstError i s = some e := exec_err_eq_iff h he
  refine ⟨(hcode .invalidParameter (by decide)).trans firstError_eq_invalidParameter_iff,
    (hcode .notKeyed (by decide)).trans firstError_eq_notKeyed_iff,
    (hcode .invalidLength (by decide)).trans firstError_eq_invalidLength_iff,
    (hcode .addressRange (by decide)).trans firstError_eq_addressRange_iff, ?_⟩
  have hne : t.err ≠ 5 := fun h5 => firstError_ne_illegalCommand ((hcode .illegalCommand (by decide)).1 h5)
  have hle := exec_err_le h
  bv_omega

/-- Settles O35: by `exec_cases` a command ends with an error and nothing else, or with `ERR` 0. -/
theorem errorsArePrecise : Obligations.ErrorsArePrecise := by
  intro i s t h
  refine ⟨exec_cmd h, exec_busy h, ?_⟩
  rcases exec_cases h with ⟨e, -, rfl⟩ | ⟨-, -, rfl⟩
  · exact .inr rfl
  · exact .inl rfl

end Sys2Proof.Machine
end

section
/-! A reset in the middle of a command (70 R301). An invariant over the transitions of a command says that it has changed nothing
but the output blocks and the bytes of a chaining register that `blocksStored` and `chainWritten` count; and those are what the
reset keeps. -/

namespace Sys2Proof.Machine

/-! ### How much the command in progress has written -/

/-- The bytes of the output range that the command in progress has stored, from `DST` on. -/
def bytesStored (s : State) : Nat := blocksStored s * blockBytes s.ctx

/-- The bytes of a chaining register that the command in progress has written, from byte 0 on. -/
def bytesChained (s : State) (cr : ChainReg) : Nat := if chainWritten s cr then blockBytes s.ctx else 0

section Written
variable {s t : State}

theorem blocksStored_le_storedByFsm (s : State) : blocksStored s ≤ storedByFsm s := by
  unfold blocksStored
  split <;> omega

theorem blocksStored_data {i : Instr} (hd : decode s.cmd = .command i) (hi : DataCommand i) :
    blocksStored s = storedByFsm s := by
  cases i with
  | setkey kbits bbits => exact absurd rfl (hi kbits bbits)
  | _ => rw [blocksStored, hd]

theorem bytesStored_eq_zero (h : blocksStored s = 0) : bytesStored s = 0 := by rw [bytesStored, h, Nat.zero_mul]

theorem blocksStored_eq_zero (h : storedByFsm s = 0) : blocksStored s = 0 :=
  Nat.le_zero.1 (h ▸ blocksStored_le_storedByFsm s)

theorem blocksStored_setkey {kbits bbits : Nat} (hd : decode s.cmd = .command (.setkey kbits bbits)) :
    blocksStored s = 0 := by
  rw [blocksStored, hd]

theorem chainWritten_chained {cr : ChainReg}
    (h : decode s.cmd = .command (.cbce cr) ∨ decode s.cmd = .command (.cbcd cr)) :
    chainWritten s cr = chainUpdatedByFsm s := by
  rcases h with h | h <;> rw [chainWritten, h] <;> simp

theorem bytesChained_eq_zero (h : chainUpdatedByFsm s = false) (cr : ChainReg) : bytesChained s cr = 0 := by
  rw [bytesChained, chainWritten, h]
  split <;> simp

/-- What has been stored only grows while the machine counts on in the same command. -/
theorem bytesStored_mono (hcmd : t.cmd = s.cmd) (hctx : t.ctx = s.ctx) (h : storedByFsm s ≤ storedByFsm t) :
    bytesStored s ≤ bytesStored t := by
  rw [bytesStored, bytesStored, hctx]
  refine Nat.mul_le_mul_right _ ?_
  rw [blocksStored, blocksStored, hcmd]
  split <;> omega

theorem bytesChained_mono (hcmd : t.cmd = s.cmd) (hctx : t.ctx = s.ctx)
    (h : chainUpdatedByFsm s = true → chainUpdatedByFsm t = true) (cr : ChainReg) : bytesChained s cr ≤ bytesChained t cr := by
  have hwritten : chainWritten s cr = true → chainWritten t cr = true := by
    rw [chainWritten, chainWritten, hcmd]
    split <;> simp +contextual [h]
  rw [bytesChained, bytesChained, hctx]
  split_ifs with hs ht
  · exact le_refl _
  · exact absurd (hwritten hs) ht
  · exact Nat.zero_le _
  · exact le_refl _

theorem storedByFsm_inBlock (hq : s.work.fsm.InBlock) (hc : s.work.fsm ≠ .bChain) : storedByFsm s = s.work.blk.toNat := by
  rcases hq with h | h | h | h | h | h <;> simp [storedByFsm, h] at hc ⊢

theorem storedByFsm_bChain (hq : s.work.fsm = .bChain) : storedByFsm s = s.work.blk.toNat + 1 := by rw [storedByFsm, hq]

theorem chainUpdatedByFsm_inBlock (hq : s.work.fsm.InBlock) : chainUpdatedByFsm s = decide (0 < s.work.blk.toNat) := by
  rcases hq with h | h | h | h | h | h <;> rw [chainUpdatedByFsm, h]

theorem storedByFsm_done (hq : s.work.fsm = .done) (he : s.NoError) : storedByFsm s = s.work.blk.toNat := by
  rw [storedByFsm, hq]
  exact if_pos he

theorem storedByFsm_done_error (hq : s.work.fsm = .done) (he : ¬ s.NoError) : storedByFsm s = 0 := by
  rw [storedByFsm, hq]
  exact if_neg he

theorem chainUpdatedByFsm_done (hq : s.work.fsm = .done) (he : s.NoError) :
    chainUpdatedByFsm s = decide (0 < s.work.blk.toNat) := by
  rw [chainUpdatedByFsm, hq]
  simp [show s.err = errCode .ok from he]

end Written

/-! ### Only so much has been written -/

/-- From `s` to `u` nothing has changed in `DBUF` but the `w` bytes from `DST` on, and nothing in a chaining register `cr` but its
first `r cr` bytes. -/
structure State.WrittenWithin (s u : State) (w : Nat) (r : ChainReg → Nat) : Prop where
  dst : u.dst = s.dst
  dbuf : ∀ a, memGet u.dbuf a ≠ memGet s.dbuf a → s.dst.toNat ≤ a ∧ a < s.dst.toNat + w
  cr : ∀ cr j, (u.cr cr).toList.getD j 0 ≠ (s.cr cr).toList.getD j 0 → j < r cr

namespace State.WrittenWithin
variable {s u t : State} {w w' : Nat} {r r' : ChainReg → Nat}

theorem of_unchanged (h : s.WrittenWithin u w r) (hdst : t.dst = u.dst) (hdbuf : t.dbuf = u.dbuf)
    (hcr : ∀ cr, t.cr cr = u.cr cr) (hw : w ≤ w') (hr : ∀ cr, r cr ≤ r' cr) : s.WrittenWithin t w' r' where
  dst := hdst.trans h.dst
  dbuf a ha := by
    have := h.dbuf a (hdbuf ▸ ha)
    omega
  cr cr j hj := (h.cr cr j (hcr cr ▸ hj)).trans_le (hr cr)

/-- A write right behind what has been written. -/
theorem after_memWrite (h : s.WrittenWithin u w r) {v : List Byte} {k : Nat} (hv : v.length ≤ k) :
    s.WrittenWithin (u.setDbuf (memWrite u.dbuf (s.dst.toNat + w) v)) (w + k) r where
  dst := h.dst
  dbuf a ha := by
    by_cases hin : s.dst.toNat + w ≤ a ∧ a < s.dst.toNat + w + v.length
    · omega
    · rw [State.setDbuf_dbuf, memGet_memWrite, if_neg hin] at ha
      have := h.dbuf a ha
      omega
  cr cr j hj := h.cr cr j (by rwa [State.setDbuf_cr] at hj)

/-- A new chaining value no longer than what may be written of its register. -/
theorem after_setChainValue (h : s.WrittenWithin u w r) {cr : ChainReg} {v : List Byte} (hsize : v.length ≤ 32)
    (hv : v.length ≤ r' cr) (hr : ∀ cr, r cr ≤ r' cr) : s.WrittenWithin (setChainValue u cr v) w r' where
  dst := (setChainValue_dst ..).trans h.dst
  dbuf a ha := h.dbuf a (by rwa [setChainValue_dbuf] at ha)
  cr cr' j hj := by
    by_cases hcr : cr' = cr
    · subst hcr
      rw [setChainValue_cr_same, bufPut_getD _ hsize] at hj
      split at hj
      · omega
      · exact (h.cr cr' j hj).trans_le (hr cr')
    · rw [setChainValue_cr_other _ hcr] at hj
      exact (h.cr cr' j hj).trans_le (hr cr')

end State.WrittenWithin

/-! ### The invariant of a command in progress -/

/-- What holds in the block loop of a data command: it is one without an error, bit 0 of its word names its register if it chains,
and the blocks it has to store, of which there is one at least, lie inside `DBUF` (46 R262, 20 R66). -/
structure State.RunsBlocks (u : State) : Prop where
  command : ∃ i, decode u.cmd = .command i ∧ DataCommand i ∧
    (u.work.chain = true → i = .cbce (fsmCr u) ∨ i = .cbcd (fsmCr u))
  noError : u.NoError
  more : u.work.blk.toNat < u.work.nblk.toNat
  inside : u.dst.toNat + u.work.nblk.toNat * blockBytes u.ctx ≤ Config.dbufBytes

/-- The command that started in `s` has come to `u`, and has written no more than it counts. -/
structure State.Progress (s u : State) : Prop where
  written : s.WrittenWithin u (bytesStored u) (bytesChained u)
  inside : bytesStored u = 0 ∨ s.dst.toNat + bytesStored u ≤ Config.dbufBytes
  loop : u.work.fsm.InBlock → u.RunsBlocks
  expanding : u.work.fsm = .ksLoad ∨ u.work.fsm = .ksStep →
    ∃ kbits bbits, decode u.cmd = .command (.setkey kbits bbits)

section RunsBlocks
variable {u t : State}

theorem State.RunsBlocks.blocksStored_eq (h : u.RunsBlocks) : blocksStored u = storedByFsm u := by
  obtain ⟨i, hd, hi, -⟩ := h.command
  exact blocksStored_data hd hi

/-- What the loop has stored is part of what it has to store. -/
theorem State.RunsBlocks.bytesStored_le (h : u.RunsBlocks) (hq : u.work.fsm.InBlock) :
    u.dst.toNat + bytesStored u ≤ Config.dbufBytes := by
  have hcount : storedByFsm u ≤ u.work.nblk.toNat := by
    have hmore := h.more
    by_cases hc : u.work.fsm = .bChain
    · rw [storedByFsm_bChain hc]
      exact hmore
    · rw [storedByFsm_inBlock hq hc]
      exact hmore.le
  rw [bytesStored, h.blocksStored_eq]
  exact (Nat.add_le_add_left (Nat.mul_le_mul_right _ hcount) _).trans h.inside

/-- What the loop does not write decides whether it may go on. -/
theorem State.RunsBlocks.of_kept (h : u.RunsBlocks) (hctx : t.ctx = u.ctx) (hdst : t.dst = u.dst) (hcmd : t.cmd = u.cmd)
    (herr : t.err = u.err) (hchain : t.work.chain = u.work.chain) (hnblk : t.work.nblk = u.work.nblk)
    (hmore : t.work.blk.toNat < t.work.nblk.toNat) : t.RunsBlocks where
  command := by rw [fsmCr, hcmd, hchain]; exact h.command
  noError := herr.trans h.noError
  more := hmore
  inside := by rw [hctx, hdst, hnblk]; exact h.inside

end RunsBlocks

namespace State.Progress
variable {s u t : State}

/-- In the block loop the rest of the invariant follows from what the loop keeps. -/
theorem of_loop (hw : s.WrittenWithin t (bytesStored t) (bytesChained t)) (hq : t.work.fsm.InBlock) (h : t.RunsBlocks) :
    s.Progress t where
  written := hw
  inside := .inr (hw.dst ▸ h.bytesStored_le hq)
  loop _ := h
  expanding hks := (hks.elim hq.ne_ksLoad hq.ne_ksStep).elim

/-- A transition between states in which nothing is written. -/
theorem of_nothing (hu : s.Progress u) (hstored : storedByFsm u = 0) (hchained : chainUpdatedByFsm u = false)
    (hdst : t.dst = u.dst) (hdbuf : t.dbuf = u.dbuf) (hcr : ∀ cr, t.cr cr = u.cr cr) (ht : blocksStored t = 0)
    (hloop : t.work.fsm.InBlock → t.RunsBlocks)
    (hks : t.work.fsm = .ksLoad ∨ t.work.fsm = .ksStep → ∃ kbits bbits, decode t.cmd = .command (.setkey kbits bbits)) :
    s.Progress t where
  written := hu.written.of_unchanged hdst hdbuf hcr (by rw [bytesStored_eq_zero (blocksStored_eq_zero hstored)]; omega)
    fun cr => by rw [bytesChained_eq_zero hchained]; omega
  inside := .inl (bytesStored_eq_zero ht)
  loop := hloop
  expanding := hks

end State.Progress

/-! ### `CHECK` and the key expansion keep it (46 R262 to R264) -/

theorem startCommand_progress (d : Word) (s : State) : s.Progress (startCommand d s) where
  written := ⟨rfl, fun _ h => absurd rfl h, fun cr _ h => absurd (by cases cr <;> rfl) h⟩
  inside := .inl (bytesStored_eq_zero (blocksStored_eq_zero rfl))
  loop h := by simp [FsmState.InBlock, startCommand] at h
  expanding h := by simp [startCommand] at h

section Check
variable {u : State} {i : Instr}

theorem startBlocks_runsBlocks {dir chain : Bool} {n : Nat} (hd : decode u.cmd = .command i) (hi : DataCommand i)
    (hchain : chain = true → i = .cbce (fsmCr u) ∨ i = .cbcd (fsmCr u)) (he : u.NoError) (hn : n < 2 ^ 32)
    (hin : u.dst.toNat + n * blockBytes u.ctx ≤ Config.dbufBytes) (hq : (startBlocks dir chain n u).work.fsm.InBlock) :
    (startBlocks dir chain n u).RunsBlocks := by
  have hnblk : (startBlocks dir chain n u).work.nblk.toNat = n := Nat.mod_eq_of_lt hn
  refine ⟨⟨i, hd, hi, hchain⟩, he, ?_, hnblk.symm ▸ hin⟩
  rw [hnblk]
  refine Nat.pos_of_ne_zero fun h0 => ?_
  subst h0
  simp [FsmState.InBlock, startBlocks] at hq

/-- A data command that passes `CHECK` enters the loop as the loop needs it. -/
theorem checkPassed_runsBlocks (hd : decode u.cmd = .command i) (hn : firstError i u = none) (he : u.NoError)
    (hq : (checkPassed i u).work.fsm.InBlock) : (checkPassed i u).RunsBlocks := by
  cases i with
  | setkey kbits bbits => simp [FsmState.InBlock, checkPassed] at hq
  | enc => exact startBlocks_runsBlocks hd nofun nofun he (by decide) (by rw [Nat.one_mul]; exact (dataError_none hn).1) hq
  | dec => exact startBlocks_runsBlocks hd nofun nofun he (by decide) (by rw [Nat.one_mul]; exact (dataError_none hn).1) hq
  | cbce cr =>
    obtain ⟨hin, hwhole⟩ := dataError_none hn
    exact startBlocks_runsBlocks hd nofun (fun _ => .inl (congrArg _ (decode_chained (.inl hd)))) he (blockCount_lt u)
      (by rw [hwhole rfl]; exact hin) hq
  | cbcd cr =>
    obtain ⟨hin, hwhole⟩ := dataError_none hn
    exact startBlocks_runsBlocks hd nofun (fun _ => .inr (congrArg _ (decode_chained (.inr hd)))) he (blockCount_lt u)
      (by rw [hwhole rfl]; exact hin) hq

/-- When `CHECK` has passed no block is stored. -/
theorem storedByFsm_checkPassed (i : Instr) (u : State) : storedByFsm (checkPassed i u) = 0 := by
  have hstart (dir chain : Bool) (n : Nat) : storedByFsm (startBlocks dir chain n u) = 0 := by
    by_cases hn : n = 0 <;> simp [storedByFsm, startBlocks, hn]
  cases i with
  | setkey kbits bbits => rfl
  | _ => exact hstart ..

theorem firstError_ne_ok {e : ErrorCode} (h : firstError i u = some e) : e ≠ .ok := by
  rintro rfl
  cases i <;> simp [firstError, dataError_eq_some_iff] at h

theorem checkPassed_frame (i : Instr) (u : State) :
    (checkPassed i u).dst = u.dst ∧ (checkPassed i u).dbuf = u.dbuf ∧ ∀ cr, (checkPassed i u).cr cr = u.cr cr := by
  cases i <;> exact ⟨rfl, rfl, fun cr => by cases cr <;> rfl⟩

end Check

section Steps
variable {s u t : State}

/-- `DONE` is neither in the block loop nor in the key expansion, so an error leaves nothing to show but that nothing is
written. -/
theorem State.Progress.check_error (hu : s.Progress u) (hq : u.work.fsm = .check) {e : ErrorCode} (he : e ≠ .ok) :
    s.Progress ((u.setErr e).goto .done) :=
  hu.of_nothing (by rw [storedByFsm, hq]) (by rw [chainUpdatedByFsm, hq]) rfl rfl (by simp)
    (blocksStored_eq_zero (storedByFsm_done_error rfl fun h => he (errCode_injective h)))
    (fun h => by simp [FsmState.InBlock] at h) (fun h => by simp at h)

theorem fsmCheck_keeps_progress (hu : s.Progress u) (hq : u.work.fsm = .check) (h : fsmCheck u = .next t) : s.Progress t := by
  obtain ⟨-, hcmd, -, hnext⟩ := fsmCheck_frame h
  rcases fsmCheck_cases h with ⟨why, -, rfl⟩ | ⟨i, hd, ⟨e, he, rfl⟩ | ⟨hn, rfl⟩⟩
  · exact hu.check_error hq nofun
  · exact hu.check_error hq (firstError_ne_ok he)
  · obtain ⟨hdst, hdbuf, hcr⟩ := checkPassed_frame i (u.setErr .ok)
    have hn' : firstError i (u.setErr .ok) = none := by rw [← hn]; cases i <;> rfl
    refine hu.of_nothing (by rw [storedByFsm, hq]) (by rw [chainUpdatedByFsm, hq]) hdst hdbuf
      (fun cr => (hcr cr).trans (State.setErr_cr ..)) (blocksStored_eq_zero (storedByFsm_checkPassed ..))
      (checkPassed_runsBlocks hd hn' rfl) fun hks => ?_
    rcases hnext with ⟨-, kbits, bbits, hsetkey, -⟩ | hfetch | hdone
    · exact ⟨kbits, bbits, hcmd ▸ hsetkey⟩
    · simp [hfetch] at hks
    · simp [hdone] at hks

theorem fsmKsLoad_keeps_progress (hu : s.Progress u) (hq : u.work.fsm = .ksLoad) : s.Progress (fsmKsLoad u) := by
  obtain ⟨kbits, bbits, hd⟩ := hu.expanding (.inl hq)
  exact hu.of_nothing (by rw [storedByFsm, hq]) (by rw [chainUpdatedByFsm, hq]) rfl rfl (by simp [fsmKsLoad])
    (blocksStored_setkey (kbits := kbits) (bbits := bbits) hd) (fun h => by simp [FsmState.InBlock, fsmKsLoad] at h)
    fun _ => ⟨kbits, bbits, hd⟩

theorem fsmKsStep_keeps_progress (hu : s.Progress u) (hq : u.work.fsm = .ksStep) : s.Progress (fsmKsStep u) := by
  obtain ⟨kbits, bbits, hd⟩ := hu.expanding (.inr hq)
  refine hu.of_nothing (by rw [storedByFsm, hq]) (by rw [chainUpdatedByFsm, hq]) rfl rfl (by simp [fsmKsStep])
    (blocksStored_setkey (kbits := kbits) (bbits := bbits) hd) (fun h => ?_) fun _ => ⟨kbits, bbits, hd⟩
  by_cases hlast : u.work.kidx.toNat + 1 = u.ctx.rklen.toNat
  · simp [FsmState.InBlock, fsmKsStep_last hlast] at h
  · simp [FsmState.InBlock, fsmKsStep_more hlast] at h

/-! ### The block loop keeps it (46 R265 to R271) -/

theorem fsmRound_latches (u : State) :
    fsmRound u = u.setWork (fsmRound u).work ∧ (fsmRound u).work.blk = u.work.blk ∧
      (fsmRound u).work.nblk = u.work.nblk ∧ (fsmRound u).work.chain = u.work.chain := by
  unfold fsmRound
  split <;> exact ⟨rfl, rfl, rfl, rfl⟩

/-- The transitions of the block loop before `B_STORE` write hidden registers only, and neither the counters nor the latch. -/
theorem tick_inBlock (hq : u.work.fsm.InBlock) (h : tick u = .next t) :
    (u.work.fsm ≠ .bChain ∧ t = u.setWork t.work ∧ t.work.blk = u.work.blk ∧ t.work.nblk = u.work.nblk ∧
        t.work.chain = u.work.chain ∧ t.work.fsm.InBlock ∧ t.work.fsm ≠ .bChain) ∨
      (u.work.fsm = .bStore ∧ t = fsmStore u) ∨ (u.work.fsm = .bChain ∧ t = fsmChain u) := by
  rw [tick] at h
  rcases hq with hq | hq | hq | hq | hq | hq <;> rw [hq] at h ⊢ <;> cases h
  · exact .inl ⟨nofun, rfl, rfl, rfl, rfl, by simp [FsmState.InBlock, fsmFetch], nofun⟩
  · exact .inl ⟨nofun, rfl, rfl, rfl, rfl, by simp [FsmState.InBlock, fsmPre], nofun⟩
  · obtain ⟨ht, hblk, hnblk, hchain⟩ := fsmRound_latches u
    refine .inl ⟨nofun, ht, hblk, hnblk, hchain, ?_⟩
    rcases fsmRound_fsm u with hr | hr <;> simp [FsmState.InBlock, hr]
  · exact .inl ⟨nofun, rfl, rfl, rfl, rfl, by simp [FsmState.InBlock, fsmPost], nofun⟩
  · exact .inr (.inl ⟨rfl, rfl⟩)
  · exact .inr (.inr ⟨rfl, rfl⟩)

theorem setWork_keeps_progress (hu : s.Progress u) (hq : u.work.fsm.InBlock) (hc : u.work.fsm ≠ .bChain) {w : Work}
    (hblk : w.blk = u.work.blk) (hnblk : w.nblk = u.work.nblk) (hchain : w.chain = u.work.chain) (hw : w.fsm.InBlock)
    (hwc : w.fsm ≠ .bChain) : s.Progress (u.setWork w) := by
  have hstored : storedByFsm u = storedByFsm (u.setWork w) := by
    rw [storedByFsm_inBlock hq hc, storedByFsm_inBlock (s := u.setWork w) hw hwc, State.setWork_work, hblk]
  have hchained : chainUpdatedByFsm u = chainUpdatedByFsm (u.setWork w) := by
    rw [chainUpdatedByFsm_inBlock hq, chainUpdatedByFsm_inBlock (s := u.setWork w) hw, State.setWork_work, hblk]
  have hrun := hu.loop hq
  refine .of_loop ?_ hw (hrun.of_kept rfl rfl rfl rfl hchain hnblk (by simpa [hblk, hnblk] using hrun.more))
  exact hu.written.of_unchanged rfl rfl (State.setWork_cr u w) (bytesStored_mono rfl rfl hstored.le)
    (bytesChained_mono rfl rfl fun h => hchained ▸ h)

/-- `B_STORE` stores one more block and counts it. -/
theorem bytesStored_fsmStore (h : u.RunsBlocks) (hq : u.work.fsm = .bStore) :
    bytesStored (fsmStore u) = bytesStored u + blockBytes u.ctx := by
  have hstore : (fsmStore u).RunsBlocks := h.of_kept rfl rfl rfl rfl rfl rfl h.more
  have hblk : storedByFsm u = u.work.blk.toNat := by rw [storedByFsm, hq]
  have hblk' : storedByFsm (fsmStore u) = u.work.blk.toNat + 1 := rfl
  have hctx : (fsmStore u).ctx = u.ctx := rfl
  rw [bytesStored, bytesStored, h.blocksStored_eq, hstore.blocksStored_eq, hblk, hblk', hctx, Nat.succ_mul]

theorem bufTake_length_le {n : Nat} (v : Vector Byte n) (k : Nat) : (bufTake v k).length ≤ k := List.length_take_le ..

theorem bufTake_length_le_size {n : Nat} (v : Vector Byte n) (k : Nat) : (bufTake v k).length ≤ n :=
  (List.length_take_le' ..).trans v.length_toList.le

theorem fsmStore_keeps_progress (hu : s.Progress u) (hq : u.work.fsm = .bStore) : s.Progress (fsmStore u) := by
  have hin : u.work.fsm.InBlock := by simp [FsmState.InBlock, hq]
  have hrun := hu.loop hin
  have hblock : dstBlock u u.work.blk.toNat = s.dst.toNat + bytesStored u := by
    rw [dstBlock, hu.written.dst, bytesStored, hrun.blocksStored_eq, storedByFsm, hq]
  have hwrite := hu.written.after_memWrite (v := fsmOut u) (bufTake_length_le _ _)
  rw [← hblock, ← bytesStored_fsmStore hrun hq] at hwrite
  refine .of_loop ?_ (by simp [FsmState.InBlock, fsmStore]) (hrun.of_kept rfl rfl rfl rfl rfl rfl hrun.more)
  refine hwrite.of_unchanged rfl rfl (State.goto_cr _ _) le_rfl (bytesChained_mono rfl rfl fun h => ?_)
  rw [chainUpdatedByFsm_inBlock hin] at h
  exact h

/-- Everything the register update of `B_CHAIN` can do: nothing for `ENC` and `DEC`, and for a chained command a new value of at
most `BB` bytes in the register it names (46 R271). -/
theorem fsmUpdateChain_cases (u : State) :
    fsmUpdateChain u = u ∨ (u.work.chain = true ∧ ∃ v : List Byte, v.length ≤ 32 ∧ v.length ≤ blockBytes u.ctx ∧
      fsmUpdateChain u = setChainValue u (fsmCr u) v) := by
  rw [fsmUpdateChain]
  split_ifs with hchain hdir
  · exact .inl rfl
  · exact .inr ⟨by simpa using hchain, _, bufTake_length_le_size _ _, bufTake_length_le _ _, rfl⟩
  · exact .inr ⟨by simpa using hchain, _, bufTake_length_le_size _ _, bufTake_length_le _ _, rfl⟩

@[simp] theorem fsmUpdateChain_err (u : State) : (fsmUpdateChain u).err = u.err := by
  rcases fsmUpdateChain_cases u with h | ⟨-, v, -, -, h⟩ <;> simp [h]
@[simp] theorem fsmUpdateChain_dst (u : State) : (fsmUpdateChain u).dst = u.dst := by
  rcases fsmUpdateChain_cases u with h | ⟨-, v, -, -, h⟩ <;> simp [h]
@[simp] theorem fsmUpdateChain_work (u : State) : (fsmUpdateChain u).work = u.work := by
  rcases fsmUpdateChain_cases u with h | ⟨-, v, -, -, h⟩ <;> simp [h]

theorem fsmChain_cmd (u : State) : (fsmChain u).cmd = u.cmd := fsmUpdateChain_cmd u

theorem fsmChain_ctx (u : State) : (fsmChain u).ctx = u.ctx := fsmUpdateChain_ctx u

/-- `B_CHAIN` counts the block that `B_STORE` has stored: the blocks stored stay as many, and the register is updated. -/
theorem fsmChain_counts (h : u.RunsBlocks) (hq : u.work.fsm = .bChain) :
    storedByFsm (fsmChain u) = storedByFsm u ∧ chainUpdatedByFsm (fsmChain u) = true := by
  have hone : (u.work.blk + 1).toNat = u.work.blk.toNat + 1 := by
    have hmore := h.more
    have hbound := u.work.nblk.isLt
    rw [BitVec.toNat_add]
    exact Nat.mod_eq_of_lt (by simp; omega)
  have hblk : (fsmChain u).work.blk = u.work.blk + 1 := rfl
  rw [storedByFsm_bChain hq, ← hone, ← hblk]
  have hpos : decide (0 < (fsmChain u).work.blk.toNat) = true := by rw [hblk, hone]; simp
  rcases fsmChain_fsm u with hfetch | hdone
  · have hin : (fsmChain u).work.fsm.InBlock := .inl hfetch
    exact ⟨storedByFsm_inBlock hin (by rw [hfetch]; exact nofun), (chainUpdatedByFsm_inBlock hin).trans hpos⟩
  · have herr : (fsmChain u).NoError := (fsmUpdateChain_err u).trans h.noError
    exact ⟨storedByFsm_done hdone herr, (chainUpdatedByFsm_done hdone herr).trans hpos⟩

/-- The loop goes on only with blocks left to store. -/
theorem fsmChain_more (hq : (fsmChain u).work.fsm.InBlock) : (fsmChain u).work.blk.toNat < u.work.nblk.toNat := by
  by_contra hlast
  have hdone : (fsmChain u).work.fsm = .done := if_neg hlast
  simp [FsmState.InBlock, hdone] at hq

/-- All that `B_CHAIN` writes beside hidden registers is the chaining register, and that write counts from then on. -/
theorem fsmUpdateChain_writtenWithin (hu : s.Progress u) (hq : u.work.fsm = .bChain) :
    s.WrittenWithin (fsmUpdateChain u) (bytesStored (fsmChain u)) (bytesChained (fsmChain u)) := by
  have hrun := hu.loop (by simp [FsmState.InBlock, hq])
  obtain ⟨hstored, hchained⟩ := fsmChain_counts hrun hq
  have hbefore : s.WrittenWithin u (bytesStored (fsmChain u)) (bytesChained (fsmChain u)) :=
    hu.written.of_unchanged rfl rfl (fun _ => rfl) (bytesStored_mono (fsmChain_cmd u) (fsmChain_ctx u) hstored.ge)
      (bytesChained_mono (fsmChain_cmd u) (fsmChain_ctx u) fun _ => hchained)
  rcases fsmUpdateChain_cases u with h | ⟨hchain, v, hsize, hv, h⟩ <;> rw [h]
  · exact hbefore
  · obtain ⟨i, hd, -, hi⟩ := hrun.command
    have hnamed : decode (fsmChain u).cmd = .command (.cbce (fsmCr u)) ∨
        decode (fsmChain u).cmd = .command (.cbcd (fsmCr u)) := by
      rw [fsmChain_cmd, hd]
      exact (hi hchain).imp (congrArg _) (congrArg _)
    have hbytes : bytesChained (fsmChain u) (fsmCr u) = blockBytes u.ctx := by
      rw [bytesChained, chainWritten_chained hnamed, if_pos hchained, fsmChain_ctx]
    exact hbefore.after_setChainValue hsize (hbytes ▸ hv) fun _ => le_rfl

theorem fsmChain_keeps_progress (hu : s.Progress u) (hq : u.work.fsm = .bChain) : s.Progress (fsmChain u) := by
  have hin : u.work.fsm.InBlock := by simp [FsmState.InBlock, hq]
  have hrun := hu.loop hin
  have hnblk : (fsmChain u).work.nblk = u.work.nblk := by simp [fsmChain]
  have hbytes : bytesStored (fsmChain u) ≤ bytesStored u :=
    bytesStored_mono (fsmChain_cmd u).symm (fsmChain_ctx u).symm (fsmChain_counts hrun hq).1.le
  have hfits := hrun.bytesStored_le hin
  rw [hu.written.dst] at hfits
  refine ⟨?_, .inr (by omega), fun hnext => ?_, fun hks => ?_⟩
  · exact (fsmUpdateChain_writtenWithin hu hq).of_unchanged rfl rfl (State.setWork_cr _ _) le_rfl fun _ => le_rfl
  · exact hrun.of_kept (fsmChain_ctx u) (fsmUpdateChain_dst u) (fsmChain_cmd u) (fsmUpdateChain_err u) (by simp [fsmChain])
      hnblk (hnblk ▸ fsmChain_more hnext)
  · rcases fsmChain_fsm u with h | h <;> simp [h] at hks

/-! ### Every state of the command in progress -/

theorem tick_keeps_progress (hu : u.work.fsm = .idle ∨ s.Progress u) (h : tick u = .next t) :
    t.work.fsm = .idle ∨ s.Progress t := by
  rcases hu with hidle | hu
  · rw [tick, hidle] at h
    cases h
    exact .inl hidle
  rcases tick_cases h with ⟨-, rfl⟩ | ⟨hq, hc⟩ | ⟨hq, rfl⟩ | ⟨hq, rfl⟩ | ⟨hq, -⟩ | ⟨-, rfl⟩
  · exact .inr hu
  · exact .inr (fsmCheck_keeps_progress hu hq hc)
  · exact .inr (fsmKsLoad_keeps_progress hu hq)
  · exact .inr (fsmKsStep_keeps_progress hu hq)
  · rcases tick_inBlock hq h with ⟨hc, ht, hblk, hnblk, hchain, hw, hwc⟩ | ⟨hq, rfl⟩ | ⟨hq, rfl⟩
    · exact .inr (ht ▸ setWork_keeps_progress hu hq hc hblk hnblk hchain hw hwc)
    · exact .inr (fsmStore_keeps_progress hu hq)
    · exact .inr (fsmChain_keeps_progress hu hq)
  · exact .inl rfl

/-- What each transition keeps, any number of them keeps. -/
theorem ticks_keeps {p : State → Prop} (hp : ∀ {s t}, p s → tick s = .next t → p t) {n : Nat} {s t : State} (hs : p s)
    (h : ticks n s = .next t) : p t := by
  induction n generalizing s with
  | zero =>
    cases h
    exact hs
  | succ n ih =>
    cases htick : tick s with
    | next u => exact ih (hp hs htick) (ticks_succ htick n ▸ h)
    | fault r => rw [ticks, htick] at h; cases h
    | refused r => rw [ticks, htick] at h; cases h

theorem ticks_startCommand_progress {n : Nat} {d : Word} (h : ticks n (startCommand d s) = .next u)
    (hq : u.work.fsm ≠ .idle) : s.Progress u :=
  (ticks_keeps tick_keeps_progress (.inr (startCommand_progress d s)) h).resolve_left hq

end Steps

/-! ### What a reset keeps of it (70 R301) -/

section Reset
variable {u : State}

theorem memGet_resetDbuf_stored (drawn : List Byte) {a : Nat}
    (hin : bytesStored u = 0 ∨ u.dst.toNat + bytesStored u ≤ Config.dbufBytes) (hlo : u.dst.toNat ≤ a)
    (hhi : a < u.dst.toNat + bytesStored u) : memGet (resetDbuf drawn u) a = memGet u.dbuf a := by
  rw [bytesStored] at hin hhi
  rw [memGet_resetDbuf, writtenBytes, memRead_length]
  exact if_pos (by omega)

theorem getD_bufPut_bufTake (v w : Vector Byte 32) {j k : Nat} (hj : j < k) :
    (bufPut w (bufTake v k)).toList.getD j 0 = v.toList.getD j 0 := by
  rw [bufPut_getD w (bufTake_length_le_size v k), bufTake, List.length_take, Vector.length_toList]
  by_cases h32 : j < 32
  · rw [if_pos (by omega), List.getD_eq_getElem?_getD, List.getElem?_take_of_lt hj, List.getD_eq_getElem?_getD]
  · rw [if_neg (by omega), List.getD_eq_default _ _ (by simp; omega), List.getD_eq_default _ _ (by simp; omega)]

theorem getD_resetCr_chained (drawn : Vector Byte 32) {cr : ChainReg} {j : Nat} (hj : j < bytesChained u cr) :
    (resetCr drawn u cr).toList.getD j 0 = (u.cr cr).toList.getD j 0 := by
  rw [bytesChained] at hj
  split at hj
  · next hw =>
    rw [resetCr, if_pos hw]
    exact getD_bufPut_bufTake _ _ hj
  · exact absurd hj (Nat.not_lt_zero j)

end Reset

/-- Settles O57: what the command in progress has changed lies within what it counts as written (`ticks_startCommand_progress`),
inside `DBUF`, and that is what the reset keeps. -/
theorem aResetDuringACommandKeepsWhatItWrote : Obligations.AResetDuringACommandKeepsWhatItWrote := by
  intro s u d n draw rest _ _ _ h hq
  have hu := ticks_startCommand_progress h hq
  have hdst := hu.written.dst
  have hkept (a : Nat) (hlo : s.dst.toNat ≤ a) (hhi : a < s.dst.toNat + bytesStored u) :
      memGet (resetDbuf draw.dbuf u) a = memGet u.dbuf a :=
    memGet_resetDbuf_stored _ (hdst ▸ hu.inside) (hdst ▸ hlo) (hdst ▸ hhi)
  refine ⟨applyReset draw { u with port := rest }, rfl, rfl, rfl, rfl, rfl, rfl, fun a ha => ?_, hkept, fun cr j hj => ?_⟩
  · obtain ⟨hlo, hhi⟩ := hu.written.dbuf a ha
    exact hkept a hlo hhi
  · rw [applyReset_cr]
    exact getD_resetCr_chained _ (u := u) (hu.written.cr cr j hj)

end Sys2Proof.Machine
end
